-- ==== Sys2Proof/Word.lean ====
section
/-! DEFINITION. The word types of the Pelco-D frame encoder. Bit 0 is the least significant bit (R13); every value
is unsigned (R14). -/

namespace Sys2Proof

/-- A frame byte, or the value of a byte-wide port (R7). -/
abbrev Byte := BitVec 8

/-- The packed view of a frame, F[0] in bits 55:48 and F[6] in bits 7:0 (R17). -/
abbrev Frame56 := BitVec 56

/-- The cycle-control vector `rst ++ busy ++ in_valid ++ out_ready` (R70). -/
abbrev Ctl := BitVec 4

/-- The stimulus word of a test program (R71). -/
abbrev Step33 := BitVec 33

end Sys2Proof
end

