-- ==== Sys2Proof/Syntax.lean ====
section
/-! DEFINITION. What a step of the block is told and what it does: the request, the input ports of one step, the
frame, and one constructor of `Instr` for each row of spec/opcode_table.json. -/

namespace Sys2Proof

/-- A request `q` (R80): the camera address and one MotionDecision (R21). Nothing here is restricted to the input
contract of R131: every value of every port can be presented (R68). -/
structure Request where
  /-- `in_addr` (R8) -/
  addr : Byte
  /-- `in_right` -/
  right : Bool
  /-- `in_left` -/
  left : Bool
  /-- `in_up` -/
  up : Bool
  /-- `in_down` -/
  down : Bool
  /-- `in_tele` -/
  tele : Bool
  /-- `in_wide` -/
  wide : Bool
  /-- `in_pan` (R9) -/
  pan : Byte
  /-- `in_tilt` (R9) -/
  tilt : Byte
  deriving DecidableEq, Repr, Inhabited

/-- The input ports of one step (R20), all but `clk`, whose rising edge is the step itself (R26). -/
structure Inputs where
  /-- `rst` -/
  rst : Bool
  /-- `in_valid` -/
  inValid : Bool
  /-- `out_ready` -/
  outReady : Bool
  /-- the request fields, read only in the step that accepts them (R113) -/
  req : Request
  deriving DecidableEq, Repr, Inhabited

/-- A frame `F[0..6]` (R2, R17), its bytes under the names of R60. -/
structure Frame where
  /-- F[0] -/
  sync : Byte
  /-- F[1] -/
  addr : Byte
  /-- F[2] -/
  cmd1 : Byte
  /-- F[3] -/
  cmd2 : Byte
  /-- F[4] -/
  data1 : Byte
  /-- F[5] -/
  data2 : Byte
  /-- F[6] -/
  checksum : Byte
  deriving DecidableEq, Repr

/-- The five operations of a step: the CTL-4 rows of the opcode table (R70). -/
inductive CtlOp where
  | reset
  | idle
  | accept
  | emit
  | stall
  deriving DecidableEq, Repr

/-- The seven commands a frame can carry: the FRAME-56 rows of the opcode table (R66). -/
inductive FrameCmd where
  | stop
  | panRight
  | panLeft
  | tiltUp
  | tiltDown
  | zoomTele
  | zoomWide
  deriving DecidableEq, Repr

/-- One constructor per row of spec/opcode_table.json. A FRAME-56 row's operands are the other fields of its frame,
given as the request the frame encodes; commands combine in one frame (R66, R90), so the other flags are operands
too. A CTL-4 row has no operand: what an operation reads, it reads from the ports and the state (R110). -/
inductive Instr where
  /-- STOP (R89) -/
  | stop (q : Request)
  /-- PAN_RIGHT (R83) -/
  | panRight (q : Request)
  /-- PAN_LEFT (R84) -/
  | panLeft (q : Request)
  /-- TILT_UP (R85) -/
  | tiltUp (q : Request)
  /-- TILT_DOWN (R86) -/
  | tiltDown (q : Request)
  /-- ZOOM_TELE (R87) -/
  | zoomTele (q : Request)
  /-- ZOOM_WIDE (R88) -/
  | zoomWide (q : Request)
  /-- RESET (R111) -/
  | reset
  /-- IDLE (R112) -/
  | idle
  /-- ACCEPT (R113) -/
  | accept
  /-- EMIT (R114) -/
  | emit
  /-- STALL (R115) -/
  | stall
  deriving DecidableEq, Repr

/-- Why a decoder built from the opcode table refuses a word: the shapes of R67 (93_implementation_defined.md U8),
and words of no format of the table. -/
inductive Reject where
  /-- neither one byte (CTL-4) nor seven bytes (FRAME-56, R69) -/
  | length
  /-- a control byte with a bit above CTL-4's four -/
  | ctlHighBits
  /-- sync other than 0xFF -/
  | sync
  /-- cmd1 other than 0x00 -/
  | cmd1
  /-- cmd2 with bit 7 or bit 0 set -/
  | cmd2Reserved
  /-- cmd2 with both 0x20 and 0x40 set -/
  | bothZoom
  /-- a checksum byte that is not the sum of bytes 1 to 5 mod 255 (0xFF among them) -/
  | checksum
  deriving DecidableEq, Repr

end Sys2Proof
end

