-- ==== Sys2Proof/Config.lean ====
section
/-! DEFINITION. What the spec fixes once for the block, its one open parameter's type, and the free values. -/

namespace Sys2Proof

/-- `OOD_POLICY`, what a model does with an accepted request that breaks the input contract (R10, R132, R133). -/
inductive OodPolicy where
  | refuse
  | compute
  deriving DecidableEq, Repr

namespace Config

/-- The identity string of the block and its protocol subset (R3). -/
def identity : String := "PELCO-D/MOVE-ENC"

/-- `SYSTEM_ADDR`, the address the surrounding system uses (R8). -/
def systemAddr : Byte := 0x01#8

/-- The maximum device speed code (R9). -/
def maxSpeed : Byte := 0x39#8

/-- The checksum modulus (R11): 255, not 256. -/
def checksumModulus : Nat := 255

/-- The frame length in bytes (R12). -/
def frameLength : Nat := 7

/-- The default of `OOD_POLICY` (R10). -/
def defaultPolicy : OodPolicy := .refuse

/-- FREE VALUE: what the caller and the sink drive on the input ports in the step numbered `n`, once the schedule of
a test program is used up. Any values in any step (R140), so nothing constrains it: notes/assumptions/1.md. -/
opaque freePorts : Nat → Inputs

end Config

end Sys2Proof
end

