-- ==== Sys2Proof/WellFormed.lean ====
section
/-! DEFINITION. Which terms of `Instr` are words of the opcode table: a FRAME-56 term carries its own command's flag,
as the row's match bits say (R66), and no frame holds both zoom bits (R63). The input contract (R131) is no part of
this: a request outside it is still a word. -/

namespace Sys2Proof

/-- No flag is set: the condition of STOP (R89). -/
def Request.noFlags (q : Request) : Bool :=
  !q.right && !q.left && !q.up && !q.down && !q.tele && !q.wide

/-- Not both zoom flags: what a frame's cmd2 can hold (R63). -/
def Request.oneZoom (q : Request) : Bool := !(q.tele && q.wide)

/-- The term is a word of its row (R66, R70). -/
def Instr.wellFormed : Instr → Bool
  | .stop q => q.noFlags
  | .panRight q => q.right && q.oneZoom
  | .panLeft q => q.left && q.oneZoom
  | .tiltUp q => q.up && q.oneZoom
  | .tiltDown q => q.down && q.oneZoom
  | .zoomTele q => q.tele && q.oneZoom
  | .zoomWide q => q.wide && q.oneZoom
  | .reset => true
  | .idle => true
  | .accept => true
  | .emit => true
  | .stall => true

end Sys2Proof
end

