-- ==== Sys2Proof/Decode.lean ====
section
/-! DEFINITION. Decoding and encoding by the tables of 30_encoding.md: the opcode table's CTL-4 and FRAME-56 rows, the
frame's layout and its decode (R60, R62, R65), and the stimulus word STEP-33 (R71). Decoding is total on any bytes and
refuses by name. The encoder is written from the same tables, not from the machine's algorithm (Machine/Encode.lean). -/

namespace Sys2Proof

/-! ### The rows of the opcode table -/

/-- The `match` of a CTL-4 row (R70). -/
def CtlOp.pattern : CtlOp → Ctl
  | .reset => 0x8#4
  | .idle => 0x0#4
  | .accept => 0x2#4
  | .emit => 0x5#4
  | .stall => 0x4#4

/-- The `mask` of a CTL-4 row (R70). -/
def CtlOp.mask : CtlOp → Ctl
  | .reset => 0x8#4
  | .idle => 0xE#4
  | .accept => 0xE#4
  | .emit => 0xD#4
  | .stall => 0xD#4

/-- The control vector is of this row. -/
def CtlOp.covers (o : CtlOp) (c : Ctl) : Bool := c &&& o.mask == o.pattern

/-- The `match` of a FRAME-56 row (R66). -/
def FrameCmd.pattern : FrameCmd → Frame56
  | .stop => 0xFF000000000000#56
  | .panRight => 0xFF000002000000#56
  | .panLeft => 0xFF000004000000#56
  | .tiltUp => 0xFF000008000000#56
  | .tiltDown => 0xFF000010000000#56
  | .zoomTele => 0xFF000020000000#56
  | .zoomWide => 0xFF000040000000#56

/-- The `mask` of a FRAME-56 row (R66). -/
def FrameCmd.mask : FrameCmd → Frame56
  | .stop => 0xFF00FFFF000000#56
  | .panRight => 0xFF00FF83000000#56
  | .panLeft => 0xFF00FF85000000#56
  | .tiltUp => 0xFF00FF89000000#56
  | .tiltDown => 0xFF00FF91000000#56
  | .zoomTele => 0xFF00FFE1000000#56
  | .zoomWide => 0xFF00FFE1000000#56

/-- The packed frame matches this row: it carries the command (R66). -/
def FrameCmd.covers (c : FrameCmd) (w : Frame56) : Bool := w &&& c.mask == c.pattern

/-- The FRAME-56 rows in the table's order. -/
def FrameCmd.all : List FrameCmd :=
  [.stop, .panRight, .panLeft, .tiltUp, .tiltDown, .zoomTele, .zoomWide]

/-- The instruction of a CTL-4 row. -/
def CtlOp.toInstr : CtlOp → Instr
  | .reset => .reset
  | .idle => .idle
  | .accept => .accept
  | .emit => .emit
  | .stall => .stall

/-- The instruction of a FRAME-56 row whose frame encodes `q`. -/
def FrameCmd.toInstr (q : Request) : FrameCmd → Instr
  | .stop => .stop q
  | .panRight => .panRight q
  | .panLeft => .panLeft q
  | .tiltUp => .tiltUp q
  | .tiltDown => .tiltDown q
  | .zoomTele => .zoomTele q
  | .zoomWide => .zoomWide q

/-! ### The control vector -/

/-- The control vector, `rst` in bit 3 and `out_ready` in bit 0 (R70). -/
def ctlOf (rst busy inValid outReady : Bool) : Ctl :=
  BitVec.ofBool rst ++ BitVec.ofBool busy ++ BitVec.ofBool inValid ++ BitVec.ofBool outReady

/-- The operation a control vector selects: the rows of R70 in the table's order. Every vector is of exactly one row
(R68), so the last row needs no test. -/
def selectOp (c : Ctl) : CtlOp :=
  if CtlOp.reset.covers c then .reset
  else if CtlOp.idle.covers c then .idle
  else if CtlOp.accept.covers c then .accept
  else if CtlOp.emit.covers c then .emit
  else .stall

/-! ### The frame -/

/-- The bytes of a frame in wire order (R42). -/
def Frame.bytes (f : Frame) : List Byte :=
  [f.sync, f.addr, f.cmd1, f.cmd2, f.data1, f.data2, f.checksum]

/-- `Frame56(F)`, F[0] in the most significant byte (R17). -/
def Frame.packed (f : Frame) : Frame56 :=
  f.sync ++ f.addr ++ f.cmd1 ++ f.cmd2 ++ f.data1 ++ f.data2 ++ f.checksum

/-- The frame a packed view shows (R17, R60). -/
def Frame.ofPacked (w : Frame56) : Frame where
  sync := w.extractLsb' 48 8
  addr := w.extractLsb' 40 8
  cmd1 := w.extractLsb' 32 8
  cmd2 := w.extractLsb' 24 8
  data1 := w.extractLsb' 16 8
  data2 := w.extractLsb' 8 8
  checksum := w.extractLsb' 0 8

/-- The exact sum F[1] + F[2] + F[3] + F[4] + F[5], a natural number (R91, R14). -/
def Frame.bodySum (f : Frame) : Nat :=
  f.addr.toNat + f.cmd1.toNat + f.cmd2.toNat + f.data1.toNat + f.data2.toNat

/-- `checksum_ok` of the frame decode (R65). -/
def Frame.checksumOk (f : Frame) : Bool :=
  f.checksum.toNat == f.bodySum % Config.checksumModulus

/-- The frame decode of R65: the request whose frame this would be. -/
def Frame.request (f : Frame) : Request where
  addr := f.addr
  right := f.cmd2.getLsbD 1
  left := f.cmd2.getLsbD 2
  up := f.cmd2.getLsbD 3
  down := f.cmd2.getLsbD 4
  tele := f.cmd2.getLsbD 5
  wide := f.cmd2.getLsbD 6
  pan := f.data1
  tilt := f.data2

/-- Why the frame is none of this encoder's, if it is none (R67). -/
def Frame.reject? (f : Frame) : Option Reject :=
  if f.sync != 0xFF#8 then some .sync
  else if f.cmd1 != 0x00#8 then some .cmd1
  else if f.cmd2.getLsbD 7 || f.cmd2.getLsbD 0 then some .cmd2Reserved
  else if f.cmd2.getLsbD 5 && f.cmd2.getLsbD 6 then some .bothZoom
  else if !f.checksumOk then some .checksum
  else none

/-- The commands a packed frame carries: every row it matches, in the table's order (R66). -/
def commandsOf (w : Frame56) : List FrameCmd := FrameCmd.all.filter fun c => c.covers w

/-- The instructions of a frame, one for each command it carries, or the shape of R67 that makes it none of this
encoder's. -/
def decodeFrame (f : Frame) : Except Reject (List Instr) :=
  match f.reject? with
  | some r => .error r
  | none => .ok ((commandsOf f.packed).map fun c => c.toInstr f.request)

/-! ### Decoding bytes -/

/-- Decoding, total on any bytes: seven bytes are a frame in wire order (R69), one byte is a control vector in its low
four bits. A frame may carry several commands, so the answer is a list. -/
def decode : List Byte → Except Reject (List Instr)
  | [c] => if c.extractLsb' 4 4 == 0#4 then .ok [(selectOp (c.extractLsb' 0 4)).toInstr] else .error .ctlHighBits
  | [f0, f1, f2, f3, f4, f5, f6] => decodeFrame ⟨f0, f1, f2, f3, f4, f5, f6⟩
  | _ => .error .length

/-- The bytes in which a word of the opcode table stands: CTL-4 in one byte, FRAME-56 in its seven bytes with F[0]
(bits 55:48) first. -/
def tableBytes (nbits w : Nat) : Option (List Byte) :=
  if nbits ≤ 8 then (if w < 256 then some [BitVec.ofNat 8 w] else none)
  else if nbits = 56 then (if w < 2 ^ 56 then some (Frame.ofPacked (BitVec.ofNat 56 w)).bytes else none)
  else none

/-- The instruction the decoder reads from a word of the opcode table; of a frame that carries several commands, the
first in the table's order. -/
def decodeTableWord (nbits w : Nat) : Option Instr :=
  match tableBytes nbits w with
  | none => none
  | some bs =>
    match decode bs with
    | .ok (i :: _) => some i
    | .ok [] => none
    | .error _ => none

/-! ### Encoding -/

/-- cmd2 by the bit map of R62: bit 6 wide (only when tele is 0), 5 tele, 4 down, 3 up, 2 left, 1 right, and bits 7 and
0 always 0. -/
def cmd2Bits (q : Request) : Byte :=
  BitVec.ofBool false ++ BitVec.ofBool (q.wide && !q.tele) ++ BitVec.ofBool q.tele ++ BitVec.ofBool q.down
    ++ BitVec.ofBool q.up ++ BitVec.ofBool q.left ++ BitVec.ofBool q.right ++ BitVec.ofBool false

/-- The frame of a request by the layout table of R60. -/
def layoutFrame (q : Request) : Frame where
  sync := 0xFF#8
  addr := q.addr
  cmd1 := 0x00#8
  cmd2 := cmd2Bits q
  data1 := q.pan
  data2 := q.tilt
  checksum := BitVec.ofNat 8
    ((q.addr.toNat + (cmd2Bits q).toNat + q.pan.toNat + q.tilt.toNat) % Config.checksumModulus)

/-- The byte of a CTL-4 row: its match, the bits its mask leaves out 0 (R70). -/
def ctlByte (o : CtlOp) : Byte := o.pattern.zeroExtend 8

/-- The bytes of a well-formed instruction. -/
def encode : Instr → List Byte
  | .stop q => (layoutFrame q).bytes
  | .panRight q => (layoutFrame q).bytes
  | .panLeft q => (layoutFrame q).bytes
  | .tiltUp q => (layoutFrame q).bytes
  | .tiltDown q => (layoutFrame q).bytes
  | .zoomTele q => (layoutFrame q).bytes
  | .zoomWide q => (layoutFrame q).bytes
  | .reset => [ctlByte .reset]
  | .idle => [ctlByte .idle]
  | .accept => [ctlByte .accept]
  | .emit => [ctlByte .emit]
  | .stall => [ctlByte .stall]

/-! ### The stimulus word -/

/-- The inputs of one step from a STEP-33 word (R71). Every word is one. -/
def decodeStep33 (w : Step33) : Inputs where
  rst := w.getLsbD 32
  inValid := w.getLsbD 31
  outReady := w.getLsbD 30
  req :=
    { addr := w.extractLsb' 22 8
      wide := w.getLsbD 21
      tele := w.getLsbD 20
      down := w.getLsbD 19
      up := w.getLsbD 18
      left := w.getLsbD 17
      right := w.getLsbD 16
      pan := w.extractLsb' 8 8
      tilt := w.extractLsb' 0 8 }

/-- The flag field `fl[5:0]` of STEP-33, `wide` in bit 5 and `right` in bit 0 (R71). -/
def flagField (q : Request) : BitVec 6 :=
  BitVec.ofBool q.wide ++ BitVec.ofBool q.tele ++ BitVec.ofBool q.down ++ BitVec.ofBool q.up
    ++ BitVec.ofBool q.left ++ BitVec.ofBool q.right

/-- The STEP-33 word of one step's inputs (R71). -/
def encodeStep33 (p : Inputs) : Step33 :=
  BitVec.ofBool p.rst ++ BitVec.ofBool p.inValid ++ BitVec.ofBool p.outReady ++ p.req.addr ++ flagField p.req
    ++ p.req.pan ++ p.req.tilt

end Sys2Proof
end

