-- ==== Sys2Proof/Machine/Flags.lean ====
section
/-! DEFINITION. The flags of the block: it has no condition codes (R27); its flag computation is cmd2, built by OR-ing
the six command masks, tele checked before wide (40_frame_encode.md section 3, R83 to R90). -/

namespace Sys2Proof.Machine

/-- `ZoomBits(q)`: tele takes priority over wide (R80, R87, R88). -/
def zoomBits (q : Request) : Byte := if q.tele then 0x20#8 else if q.wide then 0x40#8 else 0x00#8

/-- TILT_DOWN's contribution (R86). -/
def downBits (q : Request) : Byte := if q.down then 0x10#8 else 0x00#8

/-- TILT_UP's contribution (R85). -/
def upBits (q : Request) : Byte := if q.up then 0x08#8 else 0x00#8

/-- PAN_RIGHT's contribution (R83). -/
def rightBits (q : Request) : Byte := if q.right then 0x02#8 else 0x00#8

/-- PAN_LEFT's contribution (R84). -/
def leftBits (q : Request) : Byte := if q.left then 0x04#8 else 0x00#8

/-- cmd2, the OR of the contributions (R80, R90). With no flag set it is 0x00, STOP (R89). -/
def cmd2Of (q : Request) : Byte := zoomBits q ||| downBits q ||| upBits q ||| rightBits q ||| leftBits q

end Sys2Proof.Machine
end

