-- ==== Sys2Proof/Machine/Encode.lean ====
section
/-! DEFINITION. The combinational core of the block: `Encode`, from a request to the seven bytes of its frame
(40_frame_encode.md, R80 to R93). It reads the request alone and is total (R94). -/

namespace Sys2Proof.Machine

/-- `sum mod 255` over an exact sum (R91); the result fits a byte (R92). -/
def checksumOf (sum : Nat) : Byte := BitVec.ofNat 8 (sum % Config.checksumModulus)

/-- `Encode(q)` (R80). -/
def frameEncode (q : Request) : Frame :=
  let addr := q.addr
  let cmd1 := 0x00#8
  let cmd2 := cmd2Of q
  let data1 := q.pan
  let data2 := q.tilt
  { sync := 0xFF#8
    addr := addr
    cmd1 := cmd1
    cmd2 := cmd2
    data1 := data1
    data2 := data2
    checksum := checksumOf (addr.toNat + cmd1.toNat + cmd2.toNat + data1.toNat + data2.toNat) }

end Sys2Proof.Machine
end

