-- ==== Sys2Proof/Machine/State.lean ====
section
/-! DEFINITION. The state of the machine as plain data: the block's own state (R22), the spec's model-only marks
(R23), the instance parameter and the environment's ports; the reasons a step can stop; the state after reset (R30)
and at power-on (R150). -/

namespace Sys2Proof.Machine

/-- The frame register `s.frame` (R22): seven bytes, each a value or the spec's `none` ("the absence of a value",
R15), which is what a reset leaves in it (R30). -/
structure FrameReg where
  sync : Option Byte
  addr : Option Byte
  cmd1 : Option Byte
  cmd2 : Option Byte
  data1 : Option Byte
  data2 : Option Byte
  checksum : Option Byte
  deriving DecidableEq, Repr

/-- Every byte `none` (R30). -/
def FrameReg.empty : FrameReg := ⟨none, none, none, none, none, none, none⟩

/-- The model-only marks kept beside the state (R23). No reset clears any of them. -/
structure Marks where
  /-- `m.refused`, set by a refusal (R132) -/
  refused : Bool
  /-- `m.fault`, set by a model fault (R136) -/
  fault : Bool
  /-- `m.stream`, every byte emitted since the start of the run, oldest first (R44) -/
  stream : List Byte
  /-- the requests outside the contract that were accepted under `compute`, oldest first: each such accept is
  "marked INFERRED" (R133); the list is the model's form of that mark, notes/assumptions/6.md -/
  inferred : List Request
  deriving DecidableEq, Repr

/-- The reason codes of a broken input contract (R131), in the table's order. -/
inductive ContractReason where
  | addrZero
  | speedRange
  | panBothDirections
  | tiltBothDirections
  | panSpeedWithoutDirection
  | tiltSpeedWithoutDirection
  deriving DecidableEq, Repr

/-- Why a step ends in a model fault (R136). It carries the marks as the fault leaves them. -/
inductive Fault where
  /-- `ModelFault(UninitialisedState)`: raised by every operation but RESET in a state that is not well-formed (R110),
  and by a read of a `none` byte (R15). SAFE: the hardware goes on there with values the spec does not give (R150).
  `m` are the marks after it, `m.fault` set. -/
  | uninitialisedState (m : Marks)
  deriving DecidableEq, Repr

/-- Why a step is refused. -/
inductive Refusal where
  /-- An instruction that has no meaning in this model yet: raised by `exec`'s arms alone. SAFE: nothing can be proved
  of it. -/
  | notModelled (mnemonic : String)
  /-- `ContractViolation(reason(q))`: raised by ACCEPT under `OOD_POLICY = refuse` for a request that breaks the input
  contract, with every failing reason code (R132). SAFE: the hardware's behaviour there is given by no source. `m` are
  the marks after it, `m.refused` set. -/
  | contractViolation (reasons : List ContractReason) (m : Marks)
  deriving DecidableEq, Repr

/-- The machine's state. -/
structure State where
  /-- `s.busy` (R22); `none` before the first reset (R150) -/
  busy : Option Bool
  /-- `s.idx` (R22, R26); `none` before the first reset (R150) -/
  idx : Option (BitVec 3)
  /-- `s.frame` (R22) -/
  frame : FrameReg
  /-- the marks (R23) -/
  m : Marks
  /-- the instance parameter `OOD_POLICY` (R10, R28); no step writes it: notes/assumptions/3.md -/
  policy : OodPolicy
  /-- the steps counted so far (R26); it numbers the free port values: notes/assumptions/1.md -/
  steps : Nat
  /-- the input ports in the current step (R20): notes/assumptions/1.md -/
  ports : Inputs
  /-- what the environment drives in the steps to come, as far as a test program says (R71, R72) -/
  schedule : List Inputs
  deriving DecidableEq, Repr

/-- All input ports 0: the line `step` of R72. -/
def Inputs.zero : Inputs :=
  ⟨false, false, false, ⟨0x00#8, false, false, false, false, false, false, 0x00#8, 0x00#8⟩⟩

/-- The marks at the start of a run: nothing refused, no fault, nothing emitted (R23). -/
def Marks.start : Marks := ⟨false, false, [], []⟩

/-- The machine right after a reset (R30): `busy = 0`, `idx = 0`, every frame byte `none`. DESIGN CHOICE: the ports
are all 0 and nothing is scheduled, notes/assumptions/2.md. -/
def State.reset : State where
  busy := some false
  idx := some 0#3
  frame := FrameReg.empty
  m := Marks.start
  policy := Config.defaultPolicy
  steps := 0
  ports := Inputs.zero
  schedule := []

/-- Power-on, before the first reset: every element of the block's state is `none` (R150). -/
def State.powerOn : State :=
  { State.reset with busy := none, idx := none, frame := FrameReg.empty }

end Sys2Proof.Machine
end

