-- ==== Sys2Proof/Machine/Operands.lean ====
section
/-! DEFINITION. The operands of a request and the input contract (R131). -/

namespace Sys2Proof.Machine

/-- c1: the address is not 0. -/
def addrOk (q : Request) : Bool := q.addr != 0x00#8

/-- c2: both speeds are at most 0x39. -/
def speedOk (q : Request) : Bool := q.pan ≤ Config.maxSpeed && q.tilt ≤ Config.maxSpeed

/-- c3: not left and right. -/
def panDirectionOk (q : Request) : Bool := !(q.left && q.right)

/-- c4: not up and down. -/
def tiltDirectionOk (q : Request) : Bool := !(q.up && q.down)

/-- c5: a nonzero pan speed has a direction. -/
def panSpeedOk (q : Request) : Bool := q.pan == 0x00#8 || q.left || q.right

/-- c6: a nonzero tilt speed has a direction. -/
def tiltSpeedOk (q : Request) : Bool := q.tilt == 0x00#8 || q.up || q.down

/-- The condition that a reason code stands for (R131). -/
def ContractReason.holdsFor (q : Request) : ContractReason → Bool
  | .addrZero => addrOk q
  | .speedRange => speedOk q
  | .panBothDirections => panDirectionOk q
  | .tiltBothDirections => tiltDirectionOk q
  | .panSpeedWithoutDirection => panSpeedOk q
  | .tiltSpeedWithoutDirection => tiltSpeedOk q

/-- The reason codes in the table's order (R131). -/
def ContractReason.all : List ContractReason :=
  [.addrZero, .speedRange, .panBothDirections, .tiltBothDirections, .panSpeedWithoutDirection,
    .tiltSpeedWithoutDirection]

/-- `Contract(q)`: all six conditions hold (R131). Tele with wide and the all-zero request are in the contract. -/
def contract (q : Request) : Bool :=
  addrOk q && speedOk q && panDirectionOk q && tiltDirectionOk q && panSpeedOk q && tiltSpeedOk q

/-- `reason(q)`: the set of all failing codes, as a list in the table's order (R131). -/
def reasons (q : Request) : List ContractReason := ContractReason.all.filter fun r => !r.holdsFor q

/-- The request of an all-zero command at the system's address, which is in the contract (R8, R89). -/
def stopRequest : Request :=
  ⟨Config.systemAddr, false, false, false, false, false, false, 0x00#8, 0x00#8⟩

end Sys2Proof.Machine
end

