-- ==== Sys2Proof/Machine/Ops.lean ====
section
/-! DEFINITION. The named operations on the state: the frame register, well-formedness (R110), the two model-only ways
a step stops (the block takes no exception, R130, R137), capture, emission, the index, the reset, and what a step does
with the ports. -/

namespace Sys2Proof.Machine

/-! ### The frame register -/

/-- `s.frame[i]`. There is no byte 7. -/
def FrameReg.byteAt (r : FrameReg) (i : BitVec 3) : Option Byte :=
  match i.toNat with
  | 0 => r.sync
  | 1 => r.addr
  | 2 => r.cmd1
  | 3 => r.cmd2
  | 4 => r.data1
  | 5 => r.data2
  | 6 => r.checksum
  | _ => none

/-- No byte of the register is `none`. -/
def FrameReg.full (r : FrameReg) : Bool :=
  r.sync.isSome && r.addr.isSome && r.cmd1.isSome && r.cmd2.isSome && r.data1.isSome && r.data2.isSome
    && r.checksum.isSome

/-- The register holding a whole frame. -/
def FrameReg.ofFrame (f : Frame) : FrameReg :=
  ⟨some f.sync, some f.addr, some f.cmd1, some f.cmd2, some f.data1, some f.data2, some f.checksum⟩

/-! ### How a step stops -/

/-- The state is well-formed (R110): `busy` and `idx` hold values, `idx` is not 7, and while `busy = 1` no frame byte
is `none`. -/
def State.wellFormed (s : State) : Bool :=
  match s.busy, s.idx with
  | some b, some i => i != 7#3 && (!b || s.frame.full)
  | _, _ => false

/-- `fault ModelFault(UninitialisedState)`, which sets `m.fault` (R136). -/
def faultUninitialised (s : State) : Host.Outcome State Fault Refusal :=
  .fault (.uninitialisedState { s.m with fault := true })

/-- `refuse ContractViolation(reasons)`, which sets `m.refused` and has no next state (R132). -/
def refuseContract (reasons : List ContractReason) (s : State) : Host.Outcome State Fault Refusal :=
  .refused (.contractViolation reasons { s.m with refused := true })

/-- The check of R110, made before any operation but RESET. -/
def guarded (s : State) (k : Host.Outcome State Fault Refusal) : Host.Outcome State Fault Refusal :=
  if s.wellFormed then k else faultUninitialised s

/-! ### What the operations write -/

/-- The writes of RESET (R111). The marks stay. -/
def State.resetBlock (s : State) : State :=
  { s with busy := some false, idx := some 0#3, frame := FrameReg.empty }

/-- The writes of ACCEPT: the frame captured whole, `busy` 1, `idx` 0 (R113). -/
def State.capture (f : Frame) (s : State) : State :=
  { s with busy := some true, idx := some 0#3, frame := FrameReg.ofFrame f }

/-- The INFERRED mark of an accept outside the contract (R133). -/
def State.markInferred (q : Request) (s : State) : State :=
  { s with m := { s.m with inferred := s.m.inferred ++ [q] } }

/-- `emit(b)`: the byte is appended to the observation stream (R16, R44). -/
def State.emitByte (b : Byte) (s : State) : State :=
  { s with m := { s.m with stream := s.m.stream ++ [b] } }

/-- The index after the byte at `i`: on by one, and after byte 6 the frame is done (R114, R26). -/
def State.nextIndex (i : BitVec 3) (s : State) : State :=
  if i = 6#3 then { s with busy := some false, idx := some 0#3 } else { s with idx := some (i + 1#3) }

/-! ### The ports from one step to the next -/

/-- What stands on the ports in the next step: what the schedule says, and after its end anything (R140). -/
def State.nextPorts (s : State) : Inputs :=
  match s.schedule with
  | p :: _ => p
  | [] => Config.freePorts s.steps

/-- The step is over: it is counted (R26), and the ports take their next values. -/
def State.advance (s : State) : State :=
  { s with steps := s.steps + 1, ports := s.nextPorts, schedule := s.schedule.tail }

/-- What a step does around the operation it performs. -/
def finishStep : Host.Outcome State Fault Refusal → Host.Outcome State Fault Refusal
  | .next s => .next s.advance
  | .fault r => .fault r
  | .refused r => .refused r

/-- A test program is loaded: its first word is on the ports, the rest is scheduled (R71, R72). -/
def State.loadProgram : List Step33 → State → State
  | [], s => s
  | w :: ws, s => { s with ports := decodeStep33 w, schedule := ws.map decodeStep33 }

end Sys2Proof.Machine
end

