-- ==== Sys2Proof/Machine/Serializer.lean ====
section
/-! DEFINITION. The meanings of the CTL-4 rows: the five operations of 41_serializer.md. Each is its rule's pseudocode
after the check of R110; which of them a step performs is Machine/Fetch.lean's. -/

namespace Sys2Proof.Machine

/-- ACCEPT's pseudocode for the request `q` (R113): the contract under the policy (R131 to R133), then the capture. -/
def acceptRequest (q : Request) (s : State) : Host.Outcome State Fault Refusal :=
  if contract q then .next (s.capture (frameEncode q))
  else
    match s.policy with
    | .refuse => refuseContract (reasons q) s
    | .compute => .next ((s.capture (frameEncode q)).markInferred q)

/-- EMIT's pseudocode (R114): the offered byte is emitted and the index moves on. Reading a `none` element is the
model fault (R15). -/
def emitOffered (s : State) : Host.Outcome State Fault Refusal :=
  match s.idx with
  | none => faultUninitialised s
  | some i =>
    match s.frame.byteAt i with
    | none => faultUninitialised s
    | some b => .next ((s.emitByte b).nextIndex i)

/-- RESET (R111). Valid from any state, power-on among them. -/
def execReset (s : State) : Host.Outcome State Fault Refusal := .next s.resetBlock

/-- IDLE (R112): no state element is written. -/
def execIdle (s : State) : Host.Outcome State Fault Refusal := guarded s (.next s)

/-- ACCEPT (R113) of the request on the input ports of this step. -/
def execAccept (s : State) : Host.Outcome State Fault Refusal := guarded s (acceptRequest s.ports.req s)

/-- EMIT (R114). -/
def execEmit (s : State) : Host.Outcome State Fault Refusal := guarded s (emitOffered s)

/-- STALL (R115): no state element is written. -/
def execStall (s : State) : Host.Outcome State Fault Refusal := guarded s (.next s)

end Sys2Proof.Machine
end

