-- ==== Sys2Proof/Machine/Fetch.lean ====
section
/-! DEFINITION. Which operation a step performs (R110, R119, R135), and how a word of the opcode table is put where
the next step finds it. -/

namespace Sys2Proof.Machine

/-- The operation of a step whose input ports are `p` (R110). `rst = 1` selects RESET whatever the state, so there the
vector's busy bit does not matter; with `rst = 0` and `busy` still `none` there is no control vector, and no operation. -/
def State.selected (s : State) (p : Inputs) : Option CtlOp :=
  match p.rst, s.busy with
  | false, none => none
  | rst, busy => some (selectOp (ctlOf rst (busy.getD false) p.inValid p.outReady))

/-- The instruction the next step performs. -/
def State.fetch (s : State) : Option Instr := (s.selected s.ports).map CtlOp.toInstr

/-- `Step(s, in)` of R119, for any port values `p`: the selected operation, or the model fault. -/
def performWith (p : Inputs) (s : State) : Host.Outcome State Fault Refusal :=
  match s.selected p with
  | none => faultUninitialised s
  | some .reset => execReset s
  | some .idle => execIdle s
  | some .accept => guarded s (acceptRequest p.req s)
  | some .emit => execEmit s
  | some .stall => execStall s

/-! ### Placing a word -/

/-- A frame register that an output-side operation can run on: as it stands if no byte is `none`, else a STOP frame. -/
def FrameReg.filled (r : FrameReg) : FrameReg :=
  if r.full then r else FrameReg.ofFrame (frameEncode stopRequest)

/-- An index that an operation can run on: as it stands if it is 0 to 6, else 0. -/
def legalIndex : Option (BitVec 3) → Option (BitVec 3)
  | some i => if i = 7#3 then some 0#3 else some i
  | none => some 0#3

/-- A request that ACCEPT does not refuse: as it stands if it can be accepted, else the STOP request. -/
def acceptable (s : State) (q : Request) : Request :=
  if contract q || s.policy == .compute then q else stopRequest

/-- A CTL-4 word placed: `busy` and the ports hold its four bits, and what the selected operation reads is legal. -/
def placeCtl (c : Ctl) (s : State) : State :=
  { s with
    busy := some (c.getLsbD 2)
    idx := legalIndex s.idx
    frame := if c.getLsbD 2 then s.frame.filled else s.frame
    ports := ⟨c.getLsbD 3, c.getLsbD 1, c.getLsbD 0,
      if selectOp c = .accept then acceptable s s.ports.req else s.ports.req⟩ }

/-- A FRAME-56 word placed: the request it decodes to (R65) is presented to an idle block. -/
def placeFrame (w : Frame56) (s : State) : State :=
  { s with
    busy := some false
    idx := legalIndex s.idx
    ports := ⟨false, true, s.ports.outReady, (Frame.ofPacked w).request⟩ }

/-- A word of the opcode table placed for the next step: notes/assumptions/10.md. -/
def placeWord (nbits w : Nat) (s : State) : State :=
  if nbits ≤ 8 then placeCtl (BitVec.ofNat 4 w) s else placeFrame (BitVec.ofNat 56 w) s

end Sys2Proof.Machine
end

