-- ==== Sys2Proof/Machine/FrameCommands.lean ====
section
/-! DEFINITION. The meanings of the FRAME-56 rows. A frame command reaches the block as a flag of the request that the
caller presents (R62, R66), so a command's meaning is the step in which a request with that flag stands on the input
port: accepted in the step where `in_ready = 1`, with the command's bit in the captured frame (R83 to R89, R113), and
without effect while the block is busy or in reset (R116, R111). notes/assumptions/7.md. -/

namespace Sys2Proof.Machine

/-- The ports of this step with the request `q` presented. -/
def State.presenting (s : State) (q : Request) : Inputs := { s.ports with inValid := true, req := q }

/-- The step in which the caller presents `q` (R140). -/
def present (q : Request) (s : State) : Host.Outcome State Fault Refusal := performWith (s.presenting q) s

/-- The request of a STOP command: no flag set (R89). -/
def Request.withoutFlags (q : Request) : Request :=
  { q with right := false, left := false, up := false, down := false, tele := false, wide := false }

/-- STOP: a request with no flag is presented; accepted, its frame has cmd2 = 0x00 (R89). -/
def execStop (q : Request) (s : State) : Host.Outcome State Fault Refusal := present (Request.withoutFlags q) s

/-- PAN_RIGHT: a request with `right` is presented; accepted, its frame has F[3][1] = 1 (R83). -/
def execPanRight (q : Request) (s : State) : Host.Outcome State Fault Refusal := present { q with right := true } s

/-- PAN_LEFT: a request with `left` is presented; accepted, its frame has F[3][2] = 1 (R84). -/
def execPanLeft (q : Request) (s : State) : Host.Outcome State Fault Refusal := present { q with left := true } s

/-- TILT_UP: a request with `up` is presented; accepted, its frame has F[3][3] = 1 (R85). -/
def execTiltUp (q : Request) (s : State) : Host.Outcome State Fault Refusal := present { q with up := true } s

/-- TILT_DOWN: a request with `down` is presented; accepted, its frame has F[3][4] = 1 (R86). -/
def execTiltDown (q : Request) (s : State) : Host.Outcome State Fault Refusal := present { q with down := true } s

/-- ZOOM_TELE: a request with `tele` is presented; accepted, its frame has F[3][5] = 1 and F[3][6] = 0 (R87). -/
def execZoomTele (q : Request) (s : State) : Host.Outcome State Fault Refusal := present { q with tele := true } s

/-- ZOOM_WIDE: a request with `wide` is presented; accepted, its frame has F[3][6] = 1 unless `tele` is set too, which
drops wide (R88). -/
def execZoomWide (q : Request) (s : State) : Host.Outcome State Fault Refusal := present { q with wide := true } s

end Sys2Proof.Machine
end

