-- ==== Sys2Proof/Machine/Dispatch.lean ====
section
/-! DEFINITION. The one dispatch from an instruction to its meaning. -/

namespace Sys2Proof.Machine

def exec (i : Instr) (s : State) : Host.Outcome State Fault Refusal :=
  match i with
  | .stop q => Sys2Proof.Machine.execStop q s
  | .panRight q => Sys2Proof.Machine.execPanRight q s
  | .panLeft q => Sys2Proof.Machine.execPanLeft q s
  | .tiltUp q => Sys2Proof.Machine.execTiltUp q s
  | .tiltDown q => Sys2Proof.Machine.execTiltDown q s
  | .zoomTele q => Sys2Proof.Machine.execZoomTele q s
  | .zoomWide q => Sys2Proof.Machine.execZoomWide q s
  | .reset => Sys2Proof.Machine.execReset s
  | .idle => Sys2Proof.Machine.execIdle s
  | .accept => Sys2Proof.Machine.execAccept s
  | .emit => Sys2Proof.Machine.execEmit s
  | .stall => Sys2Proof.Machine.execStall s

end Sys2Proof.Machine
end

