-- ==== Sys2Proof/Machine/Step.lean ====
section
/-! DEFINITION. One step of the machine, a rising edge of `clk` (R26): the selected instruction is executed (R110,
R119), and the step is counted and the ports move on. -/

namespace Sys2Proof.Machine

/-- One step (R119). -/
def step (s : State) : Host.Outcome State Fault Refusal :=
  finishStep
    (match s.fetch with
    | none => faultUninitialised s
    | some i => exec i s)

/-- The state with a word of the opcode table placed so that the very next step runs it. -/
def State.withFetchWord (s : State) (nbits w : Nat) : State := placeWord nbits w s

end Sys2Proof.Machine
end

