-- ==== Sys2Proof/Machine/Assembler.lean ====
section
/-! DEFINITION. The assembler syntax of the test programs (R72) and the hex notation of frames (R73). Text is a list of
characters; a line the grammar does not give has no meaning (`none`). notes/assumptions/12.md. -/

namespace Sys2Proof.Machine

/-- The value of one hex digit. -/
def hexValue (c : Char) : Option Nat :=
  if '0' ≤ c ∧ c ≤ '9' then some (c.toNat - 48)
  else if 'A' ≤ c ∧ c ≤ 'F' then some (c.toNat - 55)
  else if 'a' ≤ c ∧ c ≤ 'f' then some (c.toNat - 87)
  else none

/-- `HH := two hex digits` (R72). -/
def hexByte (hi lo : Char) : Option Byte :=
  match hexValue hi, hexValue lo with
  | some h, some l => some (BitVec.ofNat 8 (16 * h + l))
  | _, _ => none

/-- One flag letter set in a request, each letter at most once (R72). -/
def setFlag (c : Char) (q : Request) : Option Request :=
  match c with
  | 'R' => if q.right then none else some { q with right := true }
  | 'L' => if q.left then none else some { q with left := true }
  | 'U' => if q.up then none else some { q with up := true }
  | 'D' => if q.down then none else some { q with down := true }
  | 'T' => if q.tele then none else some { q with tele := true }
  | 'W' => if q.wide then none else some { q with wide := true }
  | _ => none

/-- The letters of `flags`, one after the other. -/
def setFlags : List Char → Request → Option Request
  | [], q => some q
  | c :: cs, q =>
    match setFlag c q with
    | some q' => setFlags cs q'
    | none => none

/-- `flags := "-" | letter { letter }` (R72). -/
def parseFlags (cs : List Char) (q : Request) : Option Request :=
  match cs with
  | [] => none
  | ['-'] => some q
  | cs => setFlags cs q

/-- What follows the flags of a request item: `"," HH "," HH ")"` (R72). -/
def parseSpeeds : List Char → Option (Byte × Byte)
  | [',', p1, p2, ',', t1, t2, ')'] =>
    match hexByte p1 p2, hexByte t1 t2 with
    | some p, some t => some (p, t)
    | _, _ => none
  | _ => none

/-- What follows `req(`: `HH "," flags "," HH "," HH ")"` (R72). -/
def parseRequest : List Char → Option Request
  | a1 :: a2 :: ',' :: rest =>
    match hexByte a1 a2, parseSpeeds (rest.dropWhile (· != ',')) with
    | some a, some (p, t) =>
      parseFlags (rest.takeWhile (· != ','))
        { addr := a, right := false, left := false, up := false, down := false, tele := false, wide := false,
          pan := p, tilt := t }
    | _, _ => none
  | _ => none

/-- One item of a line, added to the step's inputs (R72). -/
def parseItem (w : List Char) (p : Inputs) : Option Inputs :=
  match w with
  | ['r', 's', 't'] => some { p with rst := true }
  | ['r', 'd', 'y'] => some { p with outReady := true }
  | 'r' :: 'e' :: 'q' :: '(' :: cs =>
    if p.inValid then none
    else
      match parseRequest cs with
      | some q => some { p with inValid := true, req := q }
      | none => none
  | _ => none

/-- The items of a line, one after the other. -/
def parseItems : List (List Char) → Inputs → Option Inputs
  | [], p => some p
  | w :: ws, p =>
    match parseItem w p with
    | some p' => parseItems ws p'
    | none => none

/-- A decimal number of at least one digit. -/
def decimal : List Char → Option Nat → Option Nat
  | [], n => n
  | c :: cs, n =>
    if '0' ≤ c ∧ c ≤ '9' then decimal cs (some (10 * n.getD 0 + (c.toNat - 48))) else none

/-- The words of a line, its comment from `;` on left out (R72). `word` is the word read so far. -/
def lineWords : List Char → List Char → List (List Char)
  | [], word => if word.isEmpty then [] else [word]
  | c :: cs, word =>
    if c = ';' then (if word.isEmpty then [] else [word])
    else if c = ' ' then (if word.isEmpty then lineWords cs [] else word :: lineWords cs [])
    else lineWords cs (word ++ [c])

/-- What follows `step`: a repetition `x N` with N at least 1, if there is one, and the items (R72). -/
def parseAfterStep (ws : List (List Char)) : Option (Nat × Inputs) :=
  match ws with
  | ('x' :: digits) :: items =>
    match decimal digits none, parseItems items Inputs.zero with
    | some n, some p => if n = 0 then none else some (n, p)
    | _, _ => none
  | items =>
    match parseItems items Inputs.zero with
    | some p => some (1, p)
    | none => none

/-- The inputs of the steps one line stands for (R72). A line with a comment alone stands for none. -/
def assembleLine (line : List Char) : Option (List Inputs) :=
  match lineWords line [] with
  | [] => some []
  | ['s', 't', 'e', 'p'] :: ws =>
    match parseAfterStep ws with
    | some (n, p) => some (List.replicate n p)
    | none => none
  | _ => none

/-- A program: each line encodes to one STEP-33 word per step (R72, R71). -/
def assemble : List (List Char) → Option (List Step33)
  | [] => some []
  | line :: lines =>
    match assembleLine line, assemble lines with
    | some ps, some ws => some (ps.map encodeStep33 ++ ws)
    | _, _ => none

/-! ### Frames in hex -/

/-- The hex digit of a number below 16. -/
def hexDigit (n : Nat) : Char := if n < 10 then Char.ofNat (48 + n) else Char.ofNat (55 + n)

/-- A byte as two hex digits. -/
def showByte (b : Byte) : List Char := [hexDigit (b.toNat / 16), hexDigit (b.toNat % 16)]

/-- Bytes in hex, separated by spaces (R73). -/
def showBytes : List Byte → List Char
  | [] => []
  | [b] => showByte b
  | b :: bs => showByte b ++ ' ' :: showBytes bs

/-- The hex notation of a frame, in wire order (R73). -/
def showFrame (f : Frame) : List Char := showBytes f.bytes

end Sys2Proof.Machine
end

