-- ==== Sys2Proof/Machine/Outputs.lean ====
section
/-! DEFINITION. The output ports, combinational in the state and `rst` (R117, R27). -/

namespace Sys2Proof.Machine

/-- The output ports of one step (R20). -/
structure Outputs where
  /-- `in_ready` -/
  inReady : Bool
  /-- `out_valid` -/
  outValid : Bool
  /-- `out_byte`; `none` where the block drives no byte that has a meaning (R117, R156) -/
  outByte : Option Byte
  /-- `out_last` -/
  outLast : Bool
  deriving DecidableEq, Repr

/-- What the block drives in a step with `rst = 1`: nothing accepted, nothing offered (R111, R117). -/
def Outputs.inReset : Outputs := ⟨false, false, none, false⟩

/-- The outputs of R117 in a well-formed state with `rst = 0`. -/
def Outputs.running (busy : Bool) (idx : BitVec 3) (frame : FrameReg) : Outputs where
  inReady := !busy
  outValid := busy
  outByte := if busy then frame.byteAt idx else none
  outLast := busy && idx == 6#3

/-- The outputs of a step from its state and `rst` (R117). A step that is the model fault of R136 has none. -/
def State.outputs (s : State) (rst : Bool) : Option Outputs :=
  if rst then some Outputs.inReset
  else if s.wellFormed then
    match s.busy, s.idx with
    | some b, some i => some (Outputs.running b i s.frame)
    | _, _ => none
  else none

end Sys2Proof.Machine
end

