-- ==== Sys2Proof/Safety.lean ====
section
/-! DEFINITION. What a safe run is and what claims speak of: the marks a claim may take as premise (R136), the phases
of the block, runs under any inputs, the bytes still to be sent, the accepted requests, and the invariant of every
state a run from a reset reaches. -/

namespace Sys2Proof.Machine

/-- "No fault recorded and no refusal recorded", the premise of every claim about the stream (R136). -/
def Marks.clean (m : Marks) : Bool := !m.refused && !m.fault

/-- The block is idle and well-formed: `busy = 0`, and `idx` is one of 0 to 6. -/
def State.Idling (s : State) : Prop := s.busy = some false ∧ ∃ i, s.idx = some i ∧ i ≠ 7#3

/-- The block offers byte `i` of the captured frame `f`: `busy = 1`, no frame byte is `none`, `idx` is not 7. -/
def State.Sending (s : State) (f : Frame) (i : BitVec 3) : Prop :=
  s.busy = some true ∧ s.idx = some i ∧ i ≠ 7#3 ∧ s.frame = FrameReg.ofFrame f

/-- ACCEPT takes the request: it is in the contract, or the policy computes (R113, R131 to R133). -/
def State.Takes (s : State) (q : Request) : Prop := contract q = true ∨ s.policy = .compute

/-- The bytes of the frame register, F[0] first. -/
def FrameReg.bytes (r : FrameReg) : List (Option Byte) :=
  [r.sync, r.addr, r.cmd1, r.cmd2, r.data1, r.data2, r.checksum]

/-- The state is not well-formed, in the words of R110 and R119. -/
def State.IllFormed (s : State) : Prop :=
  s.busy = none ∨ s.idx = none ∨ s.idx = some 7#3 ∨ (s.busy = some true ∧ none ∈ s.frame.bytes)

/-- The state `t` is `s` with the frame `f` captured (R113): the stream and every other part is as in `s`. The list
of INFERRED accepts is the model's own and is left out. -/
def Captured (f : Frame) (s t : State) : Prop :=
  t.busy = some true ∧ t.idx = some 0#3 ∧ t.frame = FrameReg.ofFrame f ∧ t.m.stream = s.m.stream
    ∧ t.m.refused = s.m.refused ∧ t.m.fault = s.m.fault ∧ t.policy = s.policy ∧ t.steps = s.steps
    ∧ t.ports = s.ports ∧ t.schedule = s.schedule

/-- A run whose steps have the inputs `ps`, whatever they are (R140). -/
def runOn : List Inputs → State → Host.Outcome State Fault Refusal
  | [], s => .next s
  | p :: ps, s =>
    match step { s with ports := p } with
    | .next t => runOn ps t
    | .fault r => .fault r
    | .refused r => .refused r

/-- The bytes of the frame in flight that are not emitted yet. -/
def State.remaining (s : State) : List Byte :=
  match s.busy, s.idx with
  | some true, some i => (s.frame.bytes.drop i.toNat).filterMap id
  | _, _ => []

/-- The requests that a run with the inputs `ps` accepts, in order: those on the port in its ACCEPT steps (R113). -/
def acceptedOn : List Inputs → State → List Request
  | [], _ => []
  | p :: ps, s =>
    match step { s with ports := p } with
    | .next t => if s.selected p = some .accept then p.req :: acceptedOn ps t else acceptedOn ps t
    | .fault _ => []
    | .refused _ => []

/-- What holds in every state that a run from a reset reaches: `busy` and `idx` hold values; an idle block has
`idx = 0` and a busy one 0 to 6; the frame register is empty, or holds the frame of one request, in the contract
unless the policy computes; it is not empty while busy; nothing is refused and nothing has faulted. -/
def State.Inv (s : State) : Prop :=
  (s.busy = some false ∧ s.idx = some 0#3 ∨ s.busy = some true ∧ ∃ i, s.idx = some i ∧ i ≠ 7#3)
    ∧ (s.busy = some false ∧ s.frame = FrameReg.empty
      ∨ ∃ q, s.frame = FrameReg.ofFrame (frameEncode q) ∧ s.Takes q)
    ∧ s.m.clean = true

end Sys2Proof.Machine
end

