-- ==== Sys2Proof/Certificates/Slice0/Obligations.lean ====
section
/-! DEFINITION. The statements for the provers: what the numbered rules of spec/ say the block does. OBLIGATIONS.json
lists them with the rules they formalise; Tests/Slice0.lean holds a witness for the hypotheses of each. -/

open Sys2Proof Sys2Proof.Machine Host

/-! ### The step -/

/-- R119: the step function is the composition of the five operations under the selection of R110, the states that
fault spelled out as R119 does; what a step does around the operation is `finishStep`, which leaves the block's state and the marks as they are
(notes/assumptions/1.md). -/
def Obligations.StepIsTheSpecStepFunction : Prop :=
  ∀ s : State, step s = finishStep
    (if s.ports.rst = true then exec .reset s
    else if s.busy = none ∨ s.idx = none ∨ s.idx = some 7#3 ∨ (s.busy = some true ∧ none ∈ s.frame.bytes) then
      .fault (.uninitialisedState { s.m with fault := true })
    else if s.busy = some false ∧ s.ports.inValid = false then exec .idle s
    else if s.busy = some false ∧ s.ports.inValid = true then exec .accept s
    else if s.busy = some true ∧ s.ports.outReady = true then exec .emit s
    else exec .stall s)

/-- A step runs the decoded instruction: what the step fetches is what the decoder reads from the control vector, and
the step is `exec` of it, then the step is counted and the ports take the scheduled values, or free ones. Every step
with a next state, a reset too, raises the count by 1. The ports in State and the count as a field that no reset clears
are the model's choices, notes/assumptions/1.md and 11.md. -/
def Obligations.StepRunsTheFetchedInstruction : Prop :=
  (∀ (s : State) (b : Bool), s.busy = some b →
    ∃ i, s.fetch = some i
      ∧ decode [(ctlOf s.ports.rst b s.ports.inValid s.ports.outReady).zeroExtend 8] = .ok [i])
  ∧ (∀ s : State, s.ports.rst = true → s.fetch = some .reset)
  ∧ (∀ (s : State) (i : Instr), s.fetch = some i →
    step s = match exec i s with
      | .next t => .next { t with
          steps := t.steps + 1
          ports := (match t.schedule with
            | p :: _ => p
            | [] => Config.freePorts t.steps)
          schedule := t.schedule.tail }
      | .fault r => .fault r
      | .refused r => .refused r)
  ∧ (∀ s t : State, step s = .next t → t.steps = s.steps + 1)

/-- R70 and R110: the control vector's bits, its rows disjoint and covering all 16 values, and each step performing the
one operation it selects, `rst` first and the well-formedness check before the rest. -/
def Obligations.EachStepPerformsTheSelectedOperation : Prop :=
  (∀ rst busy inValid outReady : Bool,
    (ctlOf rst busy inValid outReady).getLsbD 3 = rst ∧ (ctlOf rst busy inValid outReady).getLsbD 2 = busy
      ∧ (ctlOf rst busy inValid outReady).getLsbD 1 = inValid
      ∧ (ctlOf rst busy inValid outReady).getLsbD 0 = outReady)
  ∧ (∀ (c : Ctl) (o : CtlOp), c &&& o.mask = o.pattern ↔ selectOp c = o)
  ∧ (∀ x y z : Bool, selectOp (ctlOf true x y z) = .reset ∧ selectOp (ctlOf false false false x) = .idle
      ∧ selectOp (ctlOf false false true x) = .accept ∧ selectOp (ctlOf false true x true) = .emit
      ∧ selectOp (ctlOf false true x false) = .stall)
  ∧ (∀ s : State, s.ports.rst = true → step s = finishStep (exec .reset s))
  ∧ (∀ s : State, s.ports.rst = false → s.IllFormed →
      step s = .fault (.uninitialisedState { s.m with fault := true }))
  ∧ (∀ (s : State) (b : Bool), s.ports.rst = false → ¬s.IllFormed → s.busy = some b →
      step s = finishStep
        (exec (selectOp (ctlOf false b s.ports.inValid s.ports.outReady)).toInstr s))

/-- A step whose ports present a request is `exec` of every frame command that the request's frame is a word of, in
every state; and a frame command presented to a busy block does what the step does without it. This is the model's
meaning of the FRAME-56 rows, notes/assumptions/7.md. -/
def Obligations.PresentedCommandRuns : Prop :=
  (∀ (s : State) (c : FrameCmd), s.ports.inValid = true → (c.toInstr s.ports.req).wellFormed = true →
    step s = finishStep (exec (c.toInstr s.ports.req) s))
  ∧ ∀ (s : State) (c : FrameCmd) (q : Request), s.busy = some true → exec (c.toInstr q) s =
      if s.ports.rst = true then exec .reset s
      else if s.ports.outReady = true then exec .emit s else exec .stall s

/-- A word of the opcode table, placed where the next step finds it, is run by that step, from every state. -/
def Obligations.PlacedWordRuns : Prop :=
  ∀ (s : State) (nbits w : Nat) (i : Instr), decodeTableWord nbits w = some i →
    step (s.withFetchWord nbits w) = finishStep (exec i (s.withFetchWord nbits w))

/-- A program of STEP-33 words loaded into the machine runs as its words' inputs say, one word a step: the model's way
to run a program (notes/assumptions/10.md). -/
def Obligations.LoadedProgramRunsItsWords : Prop :=
  ∀ (w : Step33) (ws : List Step33) (s : State),
    match Sys2Proof.core.run (ws.length + 1) (s.loadProgram (w :: ws)), runOn ((w :: ws).map decodeStep33) s with
    | .next t, .next u => t.busy = u.busy ∧ t.idx = u.idx ∧ t.frame = u.frame ∧ t.m = u.m ∧ t.policy = u.policy
        ∧ t.steps = u.steps
    | .fault r, .fault r' => r = r'
    | .refused r, .refused r' => r = r'
    | _, _ => False

/-! ### The operations -/

/-- R111: RESET from any state, its outputs, its idempotence, that neither a request nor a byte moves in a reset step,
whatever the other inputs are, and that a frame it abandons is never emitted on. -/
def Obligations.ResetClearsTheBlock : Prop :=
  ∀ s : State,
    exec .reset s = .next { s with
      busy := some false, idx := some 0#3, frame := ⟨none, none, none, none, none, none, none⟩ }
    ∧ s.outputs true = some ⟨false, false, none, false⟩
    ∧ (∀ p : Inputs, p.rst = true → ∃ t, step { s with ports := p } = .next t ∧ t.busy = some false
        ∧ t.idx = some 0#3 ∧ t.frame = ⟨none, none, none, none, none, none, none⟩ ∧ t.m = s.m)
    ∧ (∀ t, exec .reset s = .next t → exec .reset t = .next t ∧ (s.Idling → t.outputs false = s.outputs false)
        ∧ t.remaining = []
        ∧ ∀ (ps : List Inputs) (u : State), (∀ p ∈ ps, p.rst = false ∧ p.inValid = false) → runOn ps t = .next u →
            u.m.stream = s.m.stream)

/-- R112: IDLE writes no state element, its outputs, and an idle block without a request stays as it is for ever,
whatever `out_ready` and the request fields do. -/
def Obligations.IdleChangesNothing : Prop :=
  ∀ s : State, s.Idling →
    exec .idle s = .next s
    ∧ s.outputs false = some ⟨true, false, none, false⟩
    ∧ ∀ ps : List Inputs, (∀ p ∈ ps, p.rst = false ∧ p.inValid = false) →
        ∃ t, runOn ps s = .next t ∧ t.busy = s.busy ∧ t.idx = s.idx ∧ t.frame = s.frame ∧ t.m = s.m

/-- R113: ACCEPT captures `Encode(q)` of the request on the ports, or under `refuse` refuses a request outside the
contract with all its reasons; its outputs; `out_ready` has no effect; no byte is transferred. -/
def Obligations.AcceptCapturesTheFrame : Prop :=
  ∀ s : State, s.Idling →
    (contract s.ports.req = true → exec .accept s = .next { s with
      busy := some true, idx := some 0#3, frame := FrameReg.ofFrame (frameEncode s.ports.req) })
    ∧ (contract s.ports.req = false → s.policy = .compute →
        ∃ t, exec .accept s = .next t ∧ Captured (frameEncode s.ports.req) s t)
    ∧ (contract s.ports.req = false → s.policy = .refuse →
        exec .accept s = .refused (.contractViolation (reasons s.ports.req) { s.m with refused := true }))
    ∧ s.outputs false = some ⟨true, false, none, false⟩

/-- R114: EMIT transfers the offered byte to the stream and moves the index, ending the frame after byte 6; its
outputs; the index never takes the value 7; the frame register keeps its contents. -/
def Obligations.EmitTransfersTheOfferedByte : Prop :=
  ∀ (s : State) (f : Frame) (i : BitVec 3), s.Sending f i →
    ∃ b, f.bytes[i.toNat]? = some b
      ∧ exec .emit s = .next { s with
          busy := some (i != 6#3)
          idx := some (if i = 6#3 then 0#3 else i + 1#3)
          m := { s.m with stream := s.m.stream ++ [b] } }
      ∧ (i ≠ 6#3 → i + 1#3 ≠ 7#3)
      ∧ s.outputs false = some ⟨false, true, some b, i == 6#3⟩

/-- R115: STALL writes no state element, its outputs, and a block whose sink stays not ready stalls for any number of
steps, whatever is presented to it. -/
def Obligations.StallHoldsTheOfferedByte : Prop :=
  ∀ (s : State) (f : Frame) (i : BitVec 3), s.Sending f i →
    exec .stall s = .next s
    ∧ (∃ b, f.bytes[i.toNat]? = some b ∧ s.outputs false = some ⟨false, true, some b, i == 6#3⟩)
    ∧ ∀ ps : List Inputs, (∀ p ∈ ps, p.rst = false ∧ p.outReady = false) →
        ∃ t, runOn ps s = .next t ∧ t.busy = s.busy ∧ t.idx = s.idx ∧ t.frame = s.frame ∧ t.m = s.m

/-- R116: a busy block is not ready, and what stands on its request port has no effect on the step. -/
def Obligations.BusyBlockIgnoresRequests : Prop :=
  ∀ s : State, s.busy = some true →
    (∀ p p' : Inputs, p.rst = p'.rst → p.outReady = p'.outReady →
      step { s with ports := p } = step { s with ports := p' })
    ∧ (∀ (rst : Bool) (o : Outputs), s.outputs rst = some o → o.inReady = false)

/-- R117: the outputs, combinational in the state and `rst`, and of no other input. -/
def Obligations.OutputsFollowTheState : Prop :=
  (∀ s : State, s.outputs true = some ⟨false, false, none, false⟩)
  ∧ (∀ (s : State) (b : Bool) (i : BitVec 3), ¬s.IllFormed → s.busy = some b → s.idx = some i →
      s.outputs false = some
        { inReady := !b
          outValid := b
          outByte := if b = true then s.frame.byteAt i else none
          outLast := b && i == 6#3 })
  ∧ (∀ (s : State) (p : Inputs) (rst : Bool), { s with ports := p }.outputs rst = s.outputs rst)

/-- R118: after a STALL, a next step without reset offers the same byte. -/
def Obligations.OfferIsStableUnderBackPressure : Prop :=
  ∀ (s t : State), s.selected s.ports = some .stall → step s = .next t →
    t.outputs false = s.outputs false ∧ ∃ o b, s.outputs false = some o ∧ o.outValid = true ∧ o.outByte = some b

/-- R120 and R121: a frame accepted in one step is offered and emitted byte by byte. After it, in steps without reset
of which `k` have the sink ready, exactly the first `k` bytes of `Encode(q)` are emitted and byte `k` is offered,
whatever else stands on the inputs; the seventh ready step ends the frame, and the block is ready again. -/
def Obligations.AcceptedFrameIsEmittedByteByByte : Prop :=
  ∀ (s : State) (a : Inputs) (ps : List Inputs), s.Idling → a.rst = false → a.inValid = true → s.Takes a.req →
    (∀ p ∈ ps, p.rst = false) → (ps.countP fun p => p.outReady) ≤ 6 →
    let k := ps.countP fun p => p.outReady
    (∃ t b, runOn (a :: ps) s = .next t
      ∧ t.m.stream = s.m.stream ++ (frameEncode a.req).bytes.take k
      ∧ (frameEncode a.req).bytes[k]? = some b
      ∧ t.outputs false = some ⟨false, true, some b, k == 6⟩)
    ∧ ∀ p : Inputs, k = 6 → p.rst = false → p.outReady = true →
      ∃ t, runOn (a :: ps ++ [p]) s = .next t
        ∧ t.m.stream = s.m.stream ++ (frameEncode a.req).bytes
        ∧ t.busy = some false ∧ t.idx = some 0#3
        ∧ t.outputs false = some ⟨true, false, none, false⟩

/-! ### The contract, refusals and faults -/

/-- R131: the input contract and its reason codes; both zoom flags do not break it, nor does the request with no flag
and no speed. -/
def Obligations.ContractIsTheSixConditions : Prop :=
  ∀ q : Request,
    (contract q = true ↔
      q.addr ≠ 0x00#8 ∧ (q.pan.toNat ≤ 0x39 ∧ q.tilt.toNat ≤ 0x39) ∧ ¬(q.left = true ∧ q.right = true)
        ∧ ¬(q.up = true ∧ q.down = true) ∧ (q.pan ≠ 0x00#8 → q.left = true ∨ q.right = true)
        ∧ (q.tilt ≠ 0x00#8 → q.up = true ∨ q.down = true))
    ∧ (.addrZero ∈ reasons q ↔ q.addr = 0x00#8)
    ∧ (.speedRange ∈ reasons q ↔ ¬(q.pan.toNat ≤ 0x39 ∧ q.tilt.toNat ≤ 0x39))
    ∧ (.panBothDirections ∈ reasons q ↔ q.left = true ∧ q.right = true)
    ∧ (.tiltBothDirections ∈ reasons q ↔ q.up = true ∧ q.down = true)
    ∧ (.panSpeedWithoutDirection ∈ reasons q ↔ q.pan ≠ 0x00#8 ∧ q.left = false ∧ q.right = false)
    ∧ (.tiltSpeedWithoutDirection ∈ reasons q ↔ q.tilt ≠ 0x00#8 ∧ q.up = false ∧ q.down = false)
    ∧ (∀ tele wide : Bool, contract { q with tele := tele, wide := wide } = contract q)
    ∧ (q.addr ≠ 0x00#8 → q.noFlags = true → q.pan = 0x00#8 → q.tilt = 0x00#8 → contract q = true)

/-- R132: a step is refused exactly when it is an ACCEPT under `refuse` whose request breaks the contract; the refusal
carries all the reasons and sets `m.refused`, which no next state clears. -/
def Obligations.RefusedExactlyOutsideTheContract : Prop :=
  (∀ (s : State) (r : Refusal), step s = .refused r ↔
    s.ports.rst = false ∧ s.Idling ∧ s.ports.inValid = true ∧ s.policy = .refuse ∧ contract s.ports.req = false
      ∧ r = .contractViolation (reasons s.ports.req) { s.m with refused := true })
  ∧ (∀ s t : State, step s = .next t → t.m.refused = s.m.refused)

/-- Under `compute` every request is accepted and its frame is `Encode(q)`; an accept outside the contract is marked
INFERRED. The mark's form, a list of requests, is the model's choice (notes/assumptions/6.md). -/
def Obligations.ComputeEncodesEveryRequest : Prop :=
  ∀ s : State, s.Idling → s.policy = .compute →
    exec .accept s = .next { s with
      busy := some true
      idx := some 0#3
      frame := FrameReg.ofFrame (frameEncode s.ports.req)
      m := { s.m with
        inferred := if contract s.ports.req = true then s.m.inferred else s.m.inferred ++ [s.ports.req] } }

/-- R135: reset before all, then the check for uninitialised state, then exactly one operation, an accept and a byte
transfer never in one step; several broken conditions are reported together. -/
def Obligations.PriorityOfEvents : Prop :=
  (∀ s : State, s.ports.rst = true → step s = finishStep (exec .reset s))
  ∧ (∀ s : State, s.ports.rst = false → s.IllFormed →
      step s = .fault (.uninitialisedState { s.m with fault := true }))
  ∧ (∀ s : State, s.ports.rst = false → ¬s.IllFormed →
      ∃ o : CtlOp, s.selected s.ports = some o ∧ o ≠ .reset ∧ step s = finishStep (exec o.toInstr s))
  ∧ (∀ s t : State, step s = .next t → s.selected s.ports = some .accept →
      t.m.stream = s.m.stream ∧ ∀ o, s.outputs s.ports.rst = some o → o.outValid = false)
  ∧ (∀ s t : State, step s = .next t → t.m.stream ≠ s.m.stream →
      s.selected s.ports = some .emit ∧ t.frame = s.frame)
  ∧ (∀ (s : State) (rs : List ContractReason) (m : Marks), step s = .refused (.contractViolation rs m) →
      ∀ r : ContractReason, r ∈ rs ↔ r.holdsFor s.ports.req = false)

/-- R136: the only fault is that of a step without reset in a state that is not well-formed; it sets `m.fault`, which
no next state clears; and no run that starts with a reset, whatever its inputs, reaches a fault. -/
def Obligations.NoFaultAfterReset : Prop :=
  (∀ (s : State) (r : Fault), step s = .fault r ↔
    s.ports.rst = false ∧ s.IllFormed ∧ r = .uninitialisedState { s.m with fault := true })
  ∧ (∀ s t : State, step s = .next t → t.m.fault = s.m.fault)
  ∧ (∀ (s : State) (p : Inputs) (ps : List Inputs) (r : Fault), p.rst = true → runOn (p :: ps) s ≠ .fault r)

/-- R23: the marks are kept beside the state. A refusal and a fault set theirs; no step that has a next state, a reset
among them, changes `m.refused` or `m.fault`; `m.stream` starts empty and takes each byte transferred, and nothing
else. -/
def Obligations.MarksAreNeverCleared : Prop :=
  (State.powerOn.m.refused = false ∧ State.powerOn.m.fault = false ∧ State.powerOn.m.stream = [])
  ∧ (∀ s t : State, step s = .next t →
    t.m.refused = s.m.refused ∧ t.m.fault = s.m.fault
      ∧ ∃ o, s.outputs s.ports.rst = some o ∧ t.m.stream = s.m.stream
        ++ if o.outValid = true ∧ s.ports.outReady = true then o.outByte.toList else [])
  ∧ (∀ (s : State) (m : Marks), step s = .fault (.uninitialisedState m) → m.fault = true ∧ m.stream = s.m.stream)
  ∧ (∀ (s : State) (rs : List ContractReason) (m : Marks), step s = .refused (.contractViolation rs m) →
      m.refused = true ∧ m.stream = s.m.stream)

/-! ### Reset, boot and hazards -/

/-- R150 and R30: at power-on every element is `none` and only a reset is no fault; a reset step leaves `busy = 0`,
`idx = 0` and an empty frame register; and a `none` byte is never offered. -/
def Obligations.PowerOnNeedsReset : Prop :=
  (State.powerOn.busy = none ∧ State.powerOn.idx = none ∧ ∀ b ∈ State.powerOn.frame.bytes, b = none)
  ∧ (∀ s : State, s.busy = none → s.idx = none → (∀ b ∈ s.frame.bytes, b = none) → ∀ p : Inputs,
      (p.rst = false → ∃ m, step { s with ports := p } = .fault (.uninitialisedState m))
      ∧ (p.rst = true → ∃ t, step { s with ports := p } = .next t))
  ∧ (∀ s t : State, s.ports.rst = true → step s = .next t →
      t.busy = some false ∧ t.idx = some 0#3 ∧ ∀ b ∈ t.frame.bytes, b = none)
  ∧ (∀ (s : State) (rst : Bool) (o : Outputs), s.outputs rst = some o → o.outValid = true → o.outByte ≠ none)

/-- R151: after a reset the block is ready and offers nothing, is in IDLE or ACCEPT by `in_valid`, and the first byte
it ever emits is the 0xFF of the first frame accepted after that reset. -/
def Obligations.AfterResetTheBlockIsReady : Prop :=
  ∀ s t : State, s.ports.rst = true → step s = .next t →
    t.outputs false = some ⟨true, false, none, false⟩
    ∧ (∀ p : Inputs, p.rst = false → t.selected p = some (if p.inValid = true then .accept else .idle))
    ∧ ∀ (ps : List Inputs) (u : State), (∀ p ∈ ps, p.rst = false) → runOn ps t = .next u →
        u.m.stream = t.m.stream
          ∨ ∃ q qs bs, acceptedOn ps t = q :: qs ∧ (frameEncode q).sync = 0xFF#8
            ∧ u.m.stream = t.m.stream ++ (frameEncode q).sync :: bs

/-- R153: a request takes effect only in a step with `in_valid` and `in_ready` both 1; in every other step the request
fields may be anything; in that step the fields it presents are the ones encoded. -/
def Obligations.RequestTakesEffectOnlyWhenTaken : Prop :=
  (∀ (s : State) (p : Inputs) (q : Request),
    (p.inValid = false ∨ ∀ o, s.outputs p.rst = some o → o.inReady = false) →
      step { s with ports := p } = step { s with ports := { p with req := q } })
  ∧ (∀ (s t : State) (o : Outputs), s.outputs s.ports.rst = some o → o.inReady = true → s.ports.inValid = true →
      step s = .next t → t.frame = FrameReg.ofFrame (frameEncode s.ports.req) ∧ t.busy = some true)

/-- R154: a frame in flight is not replaced: without a reset the register keeps it, and `in_ready` rises only in the
step after the last EMIT, in which no request was accepted. -/
def Obligations.NoPreemption : Prop :=
  ∀ (s t : State) (f : Frame) (i : BitVec 3), s.Sending f i → s.ports.rst = false → step s = .next t →
    t.frame = FrameReg.ofFrame f
    ∧ ∀ o, t.outputs false = some o → o.inReady = true →
        i = 6#3 ∧ s.ports.outReady = true ∧ t.m.stream = s.m.stream ++ [f.checksum]
        ∧ s.selected s.ports ≠ some .accept

/-- R155: a reset during a frame leaves the 0 to 6 bytes already transferred in the stream and drops the rest: nothing
of the frame is emitted after it, and the next byte in the stream is the 0xFF of the next frame accepted. -/
def Obligations.ResetAbandonsTheFrameInFlight : Prop :=
  ∀ (s t : State) (f : Frame) (i : BitVec 3), s.Sending f i → s.ports.rst = true → step s = .next t →
    i.toNat ≤ 6 ∧ s.remaining = f.bytes.drop i.toNat ∧ t.m.stream = s.m.stream ∧ t.remaining = []
      ∧ (∀ (ps : List Inputs) (u : State), (∀ p ∈ ps, p.rst = false ∧ p.inValid = false) → runOn ps t = .next u →
          u.m.stream = s.m.stream)
      ∧ ∀ (ps : List Inputs) (u : State), (∀ p ∈ ps, p.rst = false) → runOn ps t = .next u →
          u.m.stream = s.m.stream ∨ ∃ q qs bs, acceptedOn ps t = q :: qs ∧ u.m.stream = s.m.stream ++ 0xFF#8 :: bs

/-! ### The observation stream -/

/-- R44: a transfer happens in exactly the steps with `out_valid` and `out_ready` both 1, and appends the byte on
`out_byte` to the stream. -/
def Obligations.TransfersExtendTheStream : Prop :=
  ∀ s t : State, step s = .next t →
    ∃ o, s.outputs s.ports.rst = some o
      ∧ (o.outValid = true ∧ s.ports.outReady = true →
          ∃ b, o.outByte = some b ∧ t.m.stream = s.m.stream ++ [b])
      ∧ (¬(o.outValid = true ∧ s.ports.outReady = true) → t.m.stream = s.m.stream)

/-- R47: over any run without a reset, what is emitted and what is still to be emitted are together what was still to
be emitted before and then the frames of the accepted requests, whole, in order, each once; and a reset, which drops
the frame in flight, emits nothing. -/
def Obligations.StreamIsTheAcceptedFrames : Prop :=
  (∀ (ps : List Inputs) (s t : State), (∀ p ∈ ps, p.rst = false) → runOn ps s = .next t →
    t.m.stream ++ t.remaining
      = s.m.stream ++ s.remaining ++ (acceptedOn ps s).flatMap fun q => (frameEncode q).bytes)
  ∧ (∀ s t : State, s.ports.rst = true → step s = .next t → t.m.stream = s.m.stream ∧ t.remaining = [])
  ∧ (∀ s : State, s.remaining.length ≤ 7)

/-- R26: `idx` is the index of the byte offered; it moves on by exactly 1 on an EMIT, back to 0 after byte 6; a reset
and an accept write 0 to it, and no other operation writes it; after a reset it is never 7, and a state with 7 faults.
The count of steps is in Obligations.StepRunsTheFetchedInstruction. -/
def Obligations.IndexCountsTheFrameBytes : Prop :=
  (∀ (s : State) (f : Frame) (i : BitVec 3), s.Sending f i →
    ∃ o b, s.outputs false = some o ∧ o.outByte = some b ∧ f.bytes[i.toNat]? = some b)
  ∧ (∀ (s t : State) (i : BitVec 3), step s = .next t → s.selected s.ports = some .emit → s.idx = some i →
      t.idx = if i = 6#3 then some 0#3 else some (i + 1#3))
  ∧ (∀ s t : State, step s = .next t → s.selected s.ports = some .idle ∨ s.selected s.ports = some .stall →
      t.idx = s.idx)
  ∧ (∀ s t : State, step s = .next t → s.selected s.ports = some .reset ∨ s.selected s.ports = some .accept →
      t.idx = some 0#3)
  ∧ (∀ (s t : State) (p : Inputs) (ps : List Inputs), p.rst = true → runOn (p :: ps) s = .next t →
      t.idx ≠ some 7#3)
  ∧ (∀ s : State, s.idx = some 7#3 → s.ports.rst = false → ∃ m, step s = .fault (.uninitialisedState m))

/-! ### The invariant and the frames -/

/-- The invariant holds in the state after reset. -/
def Obligations.InvariantHoldsAtReset : Prop := State.reset.Inv

/-- Every step keeps the invariant, from every state that has it and under any inputs: the index stays legal, the
register holds nothing or the whole frame of one request taken, and no mark is set. -/
def Obligations.InvariantIsKeptByEveryStep : Prop :=
  (∀ s t : State, s.Inv → step s = .next t → t.Inv)
  ∧ (∀ s t : State, s.m.clean = true → s.ports.rst = true → step s = .next t → t.Inv)

/-- The frame of every instruction: no instruction changes the policy, the step count, the ports, the schedule, or the
refusal and fault marks, and the stream only grows. -/
def Obligations.EveryInstructionKeepsTheEnvironment : Prop :=
  ∀ (i : Instr) (s t : State), exec i s = .next t →
    t.policy = s.policy ∧ t.steps = s.steps ∧ t.ports = s.ports ∧ t.schedule = s.schedule
      ∧ t.m.refused = s.m.refused ∧ t.m.fault = s.m.fault ∧ ∃ bs, t.m.stream = s.m.stream ++ bs ∧ bs.length ≤ 1

/-- What each instruction leaves unchanged beside that: RESET every mark; IDLE and STALL everything; ACCEPT the stream;
EMIT the frame register and the INFERRED marks; a frame command the stream, or, where the block is busy and the
command is not taken, the frame register and the INFERRED marks. -/
def Obligations.WhatEachInstructionLeavesUnchanged : Prop :=
  (∀ s t : State, exec .reset s = .next t → t.m = s.m)
  ∧ (∀ s t : State, exec .idle s = .next t → t = s)
  ∧ (∀ s t : State, exec .stall s = .next t → t = s)
  ∧ (∀ s t : State, exec .accept s = .next t → t.m.stream = s.m.stream)
  ∧ (∀ s t : State, exec .emit s = .next t → t.frame = s.frame ∧ t.m.inferred = s.m.inferred)
  ∧ (∀ (c : FrameCmd) (q : Request) (s t : State), exec (c.toInstr q) s = .next t →
      t.m.stream = s.m.stream
        ∨ s.busy = some true ∧ t.frame = s.frame ∧ t.m.inferred = s.m.inferred)

/-! ### The frame commands -/

/-- Every frame command completes: with an idle block, no reset and a request that is taken, `exec` of the command
captures the frame whose cmd2 carries it (ZOOM_WIDE unless `tele` is set too). That a command's meaning is the step
presenting it is the model's, notes/assumptions/7.md. -/
def Obligations.FrameCommandsAreCaptured : Prop :=
  ∀ (q : Request) (s : State), s.Idling → s.ports.rst = false →
    (s.Takes { q with right := true } → ∃ t, exec (.panRight q) s = .next t
      ∧ Captured (frameEncode { q with right := true }) s t
      ∧ (frameEncode { q with right := true }).cmd2.getLsbD 1 = true)
    ∧ (s.Takes { q with left := true } → ∃ t, exec (.panLeft q) s = .next t
      ∧ Captured (frameEncode { q with left := true }) s t
      ∧ (frameEncode { q with left := true }).cmd2.getLsbD 2 = true)
    ∧ (s.Takes { q with up := true } → ∃ t, exec (.tiltUp q) s = .next t
      ∧ Captured (frameEncode { q with up := true }) s t
      ∧ (frameEncode { q with up := true }).cmd2.getLsbD 3 = true)
    ∧ (s.Takes { q with down := true } → ∃ t, exec (.tiltDown q) s = .next t
      ∧ Captured (frameEncode { q with down := true }) s t
      ∧ (frameEncode { q with down := true }).cmd2.getLsbD 4 = true)
    ∧ (s.Takes { q with tele := true } → ∃ t, exec (.zoomTele q) s = .next t
      ∧ Captured (frameEncode { q with tele := true }) s t
      ∧ (frameEncode { q with tele := true }).cmd2.getLsbD 5 = true
      ∧ (frameEncode { q with tele := true }).cmd2.getLsbD 6 = false)
    ∧ (s.Takes { q with wide := true } → ∃ t, exec (.zoomWide q) s = .next t
      ∧ Captured (frameEncode { q with wide := true }) s t
      ∧ (frameEncode { q with wide := true }).cmd2.getLsbD 6 = !q.tele)
    ∧ (s.Takes ⟨q.addr, false, false, false, false, false, false, q.pan, q.tilt⟩ → ∃ t, exec (.stop q) s = .next t
      ∧ Captured (frameEncode ⟨q.addr, false, false, false, false, false, false, q.pan, q.tilt⟩) s t
      ∧ (frameEncode ⟨q.addr, false, false, false, false, false, false, q.pan, q.tilt⟩).cmd2 = 0x00#8)

/-- R83, PAN_RIGHT: cmd2 bit 1 is `right`, whatever `pan` is; with `left` it is outside the contract and cmd2 holds
both bits. -/
def Obligations.PanRightSetsItsBit : Prop :=
  (∀ q : Request, (frameEncode q).cmd2.getLsbD 1 = q.right)
  ∧ (∀ (q : Request) (pan : Byte), (frameEncode { q with pan := pan }).cmd2 = (frameEncode q).cmd2)
  ∧ (∀ a : Byte, a ≠ 0x00#8 → contract ⟨a, true, false, false, false, false, false, 0x00#8, 0x00#8⟩ = true)
  ∧ (∀ q : Request, q.right = true → q.left = true →
      contract q = false ∧ (frameEncode q).cmd2 &&& 0x06#8 = 0x06#8
        ∧ (q.up = false → q.down = false → q.tele = false → q.wide = false → (frameEncode q).cmd2 = 0x06#8))
  ∧ frameEncode ⟨0x01#8, true, false, false, false, false, false, 0x39#8, 0x00#8⟩
      = ⟨0xFF#8, 0x01#8, 0x00#8, 0x02#8, 0x39#8, 0x00#8, 0x3C#8⟩

/-- R84, PAN_LEFT: cmd2 bit 2 is `left`; the rest as PAN_RIGHT with right and left exchanged. -/
def Obligations.PanLeftSetsItsBit : Prop :=
  (∀ q : Request, (frameEncode q).cmd2.getLsbD 2 = q.left)
  ∧ (∀ (q : Request) (pan : Byte), (frameEncode { q with pan := pan }).cmd2 = (frameEncode q).cmd2)
  ∧ (∀ a : Byte, a ≠ 0x00#8 → contract ⟨a, false, true, false, false, false, false, 0x00#8, 0x00#8⟩ = true)
  ∧ (∀ q : Request, q.right = true → q.left = true →
      contract q = false ∧ (frameEncode q).cmd2 &&& 0x06#8 = 0x06#8
        ∧ (q.up = false → q.down = false → q.tele = false → q.wide = false → (frameEncode q).cmd2 = 0x06#8))
  ∧ frameEncode ⟨0x01#8, false, true, false, false, false, false, 0x1C#8, 0x00#8⟩
      = ⟨0xFF#8, 0x01#8, 0x00#8, 0x04#8, 0x1C#8, 0x00#8, 0x21#8⟩

/-- R85, TILT_UP: cmd2 bit 3 is `up`, whatever `tilt` is; with `down` it is outside the contract and the two bits give
0x18. -/
def Obligations.TiltUpSetsItsBit : Prop :=
  (∀ q : Request, (frameEncode q).cmd2.getLsbD 3 = q.up)
  ∧ (∀ (q : Request) (tilt : Byte), (frameEncode { q with tilt := tilt }).cmd2 = (frameEncode q).cmd2)
  ∧ (∀ q : Request, q.up = true → q.down = true →
      contract q = false ∧ (frameEncode q).cmd2 &&& 0x18#8 = 0x18#8
        ∧ (q.right = false → q.left = false → q.tele = false → q.wide = false → (frameEncode q).cmd2 = 0x18#8))
  ∧ frameEncode ⟨0x01#8, false, false, true, false, false, false, 0x00#8, 0x20#8⟩
      = ⟨0xFF#8, 0x01#8, 0x00#8, 0x08#8, 0x00#8, 0x20#8, 0x29#8⟩

/-- R86, TILT_DOWN: cmd2 bit 4 is `down`; the rest as TILT_UP with up and down exchanged. -/
def Obligations.TiltDownSetsItsBit : Prop :=
  (∀ q : Request, (frameEncode q).cmd2.getLsbD 4 = q.down)
  ∧ (∀ (q : Request) (tilt : Byte), (frameEncode { q with tilt := tilt }).cmd2 = (frameEncode q).cmd2)
  ∧ (∀ q : Request, q.up = true → q.down = true →
      contract q = false ∧ (frameEncode q).cmd2 &&& 0x18#8 = 0x18#8
        ∧ (q.right = false → q.left = false → q.tele = false → q.wide = false → (frameEncode q).cmd2 = 0x18#8))
  ∧ frameEncode ⟨0x01#8, false, false, false, true, false, false, 0x00#8, 0x39#8⟩
      = ⟨0xFF#8, 0x01#8, 0x00#8, 0x10#8, 0x00#8, 0x39#8, 0x4A#8⟩

/-- R87, ZOOM_TELE: cmd2 bit 5 is `tele`, and with it bit 6 is 0 whatever `wide` is; both zoom flags are in the
contract; the speed bytes are not touched. -/
def Obligations.ZoomTeleSetsItsBit : Prop :=
  (∀ q : Request, (frameEncode q).cmd2.getLsbD 5 = q.tele)
  ∧ (∀ q : Request, q.tele = true → (frameEncode q).cmd2.getLsbD 6 = false ∧ (frameEncode q).cmd2 &&& 0x60#8 = 0x20#8)
  ∧ (∀ q : Request, contract { q with tele := true, wide := true } = contract q)
  ∧ (∀ (q : Request) (tele : Bool), (frameEncode { q with tele := tele }).data1 = (frameEncode q).data1
      ∧ (frameEncode { q with tele := tele }).data2 = (frameEncode q).data2)
  ∧ frameEncode ⟨0x01#8, false, false, false, false, true, false, 0x00#8, 0x00#8⟩
      = ⟨0xFF#8, 0x01#8, 0x00#8, 0x20#8, 0x00#8, 0x00#8, 0x21#8⟩

/-- R88, ZOOM_WIDE: cmd2 bit 6 is `wide` and not `tele`; with `tele` the wide flag is dropped and the frame, its
checksum too, is that of tele alone. -/
def Obligations.ZoomWideSetsItsBit : Prop :=
  (∀ q : Request, (frameEncode q).cmd2.getLsbD 6 = (q.wide && !q.tele))
  ∧ (∀ q : Request, q.tele = true → frameEncode { q with wide := true } = frameEncode { q with wide := false })
  ∧ frameEncode ⟨0x01#8, false, false, false, false, false, true, 0x00#8, 0x00#8⟩
      = ⟨0xFF#8, 0x01#8, 0x00#8, 0x40#8, 0x00#8, 0x00#8, 0x41#8⟩
  ∧ frameEncode ⟨0x01#8, false, false, false, false, true, true, 0x00#8, 0x00#8⟩
      = ⟨0xFF#8, 0x01#8, 0x00#8, 0x20#8, 0x00#8, 0x00#8, 0x21#8⟩

/-- R89, STOP: a request with no flag has cmd2 = 0x00; the block does not gate it: taken, its frame is captured and
emitted; with a nonzero speed it is outside the contract and, computed, its speeds are copied. -/
def Obligations.StopHasNoCommandBit : Prop :=
  (∀ q : Request, q.right = false → q.left = false → q.up = false → q.down = false → q.tele = false →
    q.wide = false → (frameEncode q).cmd2 = 0x00#8)
  ∧ (∀ q : Request, q.noFlags = true → q.pan ≠ 0x00#8 ∨ q.tilt ≠ 0x00#8 →
      contract q = false ∧ (frameEncode q).data1 = q.pan ∧ (frameEncode q).data2 = q.tilt)
  ∧ frameEncode ⟨0x01#8, false, false, false, false, false, false, 0x00#8, 0x00#8⟩
      = ⟨0xFF#8, 0x01#8, 0x00#8, 0x00#8, 0x00#8, 0x00#8, 0x01#8⟩
  ∧ ∀ (s : State) (a p : Inputs), s.Idling → a.rst = false → a.inValid = true → a.req.noFlags = true →
      s.Takes a.req → p.rst = false → p.outReady = true →
      ∃ t, runOn (a :: List.replicate 7 p) s = .next t
        ∧ t.m.stream = s.m.stream ++ [0xFF#8, a.req.addr, 0x00#8, 0x00#8, a.req.pan, a.req.tilt,
          (frameEncode a.req).checksum]

/-! ### The frame -/

/-- R81, R82 and R93: the sync byte is 0xFF whatever the request is, and the address and the speeds are copied
unchanged, outside the contract too. -/
def Obligations.FixedAndCopiedBytes : Prop :=
  (∀ q : Request, (frameEncode q).sync = 0xFF#8 ∧ (frameEncode q).bytes.head? = some 0xFF#8)
  ∧ (∀ q : Request, (frameEncode q).addr = q.addr ∧ (q.addr = 0x00#8 → contract q = false))
  ∧ (∀ q : Request, (frameEncode q).data1 = q.pan ∧ (frameEncode q).data2 = q.tilt)
  ∧ (∀ q : Request, contract q = true → q.pan.toNat ≤ 0x39 ∧ q.tilt.toNat ≤ 0x39)
  ∧ (∀ q : Request, q.pan ≠ 0x00#8 → q.left = false → q.right = false → contract q = false)
  ∧ (∀ q : Request, q.tilt ≠ 0x00#8 → q.up = false → q.down = false → contract q = false)
  ∧ (∀ q : Request, 0x3A ≤ q.pan.toNat ∨ 0x3A ≤ q.tilt.toNat → contract q = false)
  ∧ (frameEncode ⟨0xC6#8, false, false, false, false, false, false, 0x00#8, 0x00#8⟩).addr = 0xC6#8
  ∧ frameEncode ⟨0xFF#8, false, true, false, true, false, true, 0x39#8, 0x39#8⟩
      = ⟨0xFF#8, 0xFF#8, 0x00#8, 0x54#8, 0x39#8, 0x39#8, 0xC6#8⟩

/-- R80: `Encode(q)` byte by byte, the request read from the ports by ACCEPT, in the contract. -/
def Obligations.EncodeIsTheSevenBytes : Prop :=
  (∀ q : Request, (frameEncode q).bytes =
    [0xFF#8, q.addr, 0x00#8,
      (if q.tele = true then 0x20#8 else if q.wide = true then 0x40#8 else 0x00#8)
        ||| (if q.down = true then 0x10#8 else 0x00#8) ||| (if q.up = true then 0x08#8 else 0x00#8)
        ||| (if q.right = true then 0x02#8 else 0x00#8) ||| (if q.left = true then 0x04#8 else 0x00#8),
      q.pan, q.tilt,
      BitVec.ofNat 8 ((q.addr.toNat + (frameEncode q).cmd1.toNat + (frameEncode q).cmd2.toNat + q.pan.toNat
        + q.tilt.toNat) % 255)])
  ∧ (∀ s : State, s.Idling → contract s.ports.req = true →
      ∃ t, exec .accept s = .next t ∧ t.frame = FrameReg.ofFrame (frameEncode s.ports.req))
  ∧ frameEncode ⟨0x01#8, false, true, false, false, false, false, 0x1C#8, 0x00#8⟩
      = ⟨0xFF#8, 0x01#8, 0x00#8, 0x04#8, 0x1C#8, 0x00#8, 0x21#8⟩

/-- R60, R61, R62 and R64: the packed frame's fields by position, cmd1 zero in every frame, cmd2 bit by bit, and the
operands copied without change. -/
def Obligations.FrameLayoutAndBitMap : Prop :=
  ∀ q : Request,
    ((frameEncode q).packed.extractLsb' 48 8 = 0xFF#8
      ∧ (frameEncode q).packed.extractLsb' 40 8 = q.addr
      ∧ (frameEncode q).packed.extractLsb' 32 8 = 0x00#8
      ∧ (frameEncode q).packed.extractLsb' 24 8 = (frameEncode q).cmd2
      ∧ (frameEncode q).packed.extractLsb' 16 8 = q.pan
      ∧ (frameEncode q).packed.extractLsb' 8 8 = q.tilt
      ∧ (frameEncode q).packed.extractLsb' 0 8 = (frameEncode q).checksum)
    ∧ ((frameEncode q).cmd2.getLsbD 7 = false ∧ (frameEncode q).cmd2.getLsbD 6 = (q.wide && !q.tele)
      ∧ (frameEncode q).cmd2.getLsbD 5 = q.tele ∧ (frameEncode q).cmd2.getLsbD 4 = q.down
      ∧ (frameEncode q).cmd2.getLsbD 3 = q.up ∧ (frameEncode q).cmd2.getLsbD 2 = q.left
      ∧ (frameEncode q).cmd2.getLsbD 1 = q.right ∧ (frameEncode q).cmd2.getLsbD 0 = false)
    ∧ (frameEncode q).cmd1 = 0x00#8
    ∧ (frameEncode q).addr = q.addr ∧ (frameEncode q).data1 = q.pan ∧ (frameEncode q).data2 = q.tilt
    ∧ (frameEncode q).checksum.toNat
        = (q.addr.toNat + 0 + (frameEncode q).cmd2.toNat + q.pan.toNat + q.tilt.toNat) % 255

/-- R63: cmd2 bits 7 and 0 are 0, bits 5 and 6 are never both 1, and cmd2 is at most 0x5E. -/
def Obligations.ReservedCommandBitsAreZero : Prop :=
  ∀ q : Request,
    (frameEncode q).cmd2.getLsbD 7 = false ∧ (frameEncode q).cmd2.getLsbD 0 = false
      ∧ ¬((frameEncode q).cmd2.getLsbD 5 = true ∧ (frameEncode q).cmd2.getLsbD 6 = true)
      ∧ (frameEncode q).cmd2.toNat ≤ 0x7E ∧ (frameEncode q).cmd2.toNat ≤ 0x5E

/-- R90: cmd2 is the OR of the commands' contributions in any order; bits 7 and 0 receive none. -/
def Obligations.CommandsComposeByOr : Prop :=
  (∀ (q : Request) (bs : List Byte),
    bs.Perm [if q.right = true then 0x02#8 else 0x00#8, if q.left = true then 0x04#8 else 0x00#8,
      if q.up = true then 0x08#8 else 0x00#8, if q.down = true then 0x10#8 else 0x00#8,
      if q.tele = true then 0x20#8 else if q.wide = true then 0x40#8 else 0x00#8] →
    bs.foldr (· ||| ·) 0x00#8 = (frameEncode q).cmd2)
  ∧ (∀ q : Request, (frameEncode q).cmd2.getLsbD 7 = false ∧ (frameEncode q).cmd2.getLsbD 0 = false)
  ∧ (∀ (a p t : Byte), (frameEncode ⟨a, true, false, true, false, true, false, p, t⟩).cmd2 = 0x2A#8)

/-- R91: the checksum is the exact sum of bytes 1 to 5, no partial sum truncated, mod 255; a sum of 255 or 510 gives
0x00 and 256 gives 0x01; a sum of 510 is none of a request in the contract. -/
def Obligations.ChecksumIsTheExactSumMod255 : Prop :=
  ∀ q : Request,
    let f := frameEncode q
    let sum := f.addr.toNat + f.cmd1.toNat + f.cmd2.toNat + f.data1.toNat + f.data2.toNat
    f.checksum.toNat = sum % 255
      ∧ (sum = 255 → f.checksum = 0x00#8) ∧ (sum = 256 → f.checksum = 0x01#8) ∧ (sum = 510 → f.checksum = 0x00#8)
      ∧ (contract q = true → sum ≠ 510)
      ∧ (∃ q' : Request, (frameEncode q').bodySum = 510)
      ∧ frameEncode ⟨0xC6#8, true, false, false, false, false, false, 0x37#8, 0x00#8⟩
          = ⟨0xFF#8, 0xC6#8, 0x00#8, 0x02#8, 0x37#8, 0x00#8, 0x00#8⟩

/-- R92: the checksum is at most 0xFE and is 0x00 exactly at a multiple of 255; the sum is at most 453 in the contract
and at most 859 over all requests, and both are reached. -/
def Obligations.ChecksumRangeAndLargestSums : Prop :=
  (∀ q : Request, (frameEncode q).checksum.toNat ≤ 0xFE ∧ (frameEncode q).checksum ≠ 0xFF#8
    ∧ ((frameEncode q).checksum = 0x00#8 ↔ 255 ∣ (frameEncode q).bodySum)
    ∧ (frameEncode q).bodySum ≤ 859 ∧ (contract q = true → (frameEncode q).bodySum ≤ 453 ∧ (frameEncode q).cmd2.toNat ≤ 0x54))
  ∧ (∃ q : Request, contract q = true ∧ (frameEncode q).bodySum = 453 ∧ (frameEncode q).cmd2 = 0x54#8)
  ∧ (∃ q : Request, (frameEncode q).bodySum = 859 ∧ (frameEncode q).cmd2 = 0x5E#8)

/-- R95: the ranges of the seven bytes for a request in the contract, and of cmd2 for any. -/
def Obligations.OutputRanges : Prop :=
  (∀ q : Request, contract q = true →
    (frameEncode q).sync = 0xFF#8 ∧ 0x01 ≤ (frameEncode q).addr.toNat ∧ (frameEncode q).cmd1 = 0x00#8
      ∧ (frameEncode q).cmd2.toNat ≤ 0x54 ∧ (frameEncode q).cmd2.getLsbD 7 = false
      ∧ (frameEncode q).cmd2.getLsbD 0 = false
      ∧ ¬((frameEncode q).cmd2.getLsbD 5 = true ∧ (frameEncode q).cmd2.getLsbD 6 = true)
      ∧ ¬((frameEncode q).cmd2.getLsbD 1 = true ∧ (frameEncode q).cmd2.getLsbD 2 = true)
      ∧ ¬((frameEncode q).cmd2.getLsbD 3 = true ∧ (frameEncode q).cmd2.getLsbD 4 = true)
      ∧ (frameEncode q).data1.toNat ≤ 0x39 ∧ (frameEncode q).data2.toNat ≤ 0x39
      ∧ (frameEncode q).checksum.toNat ≤ 0xFE)
  ∧ (∀ q : Request, (frameEncode q).cmd2.toNat ≤ 0x5E)
  ∧ (∀ b : Byte, (∃ q, (frameEncode q).data1 = b) ∧ ∃ q, (frameEncode q).data2 = b)

/-- R65 and R96: the frame decode by the bit positions of R65 gives back every flag and speed of the request, and
checksum_ok; with both zoom flags set it gives back tele alone. -/
def Obligations.FrameDecodeRecoversTheRequest : Prop :=
  (∀ f : Frame, f.request.right = f.cmd2.getLsbD 1 ∧ f.request.left = f.cmd2.getLsbD 2
    ∧ f.request.up = f.cmd2.getLsbD 3 ∧ f.request.down = f.cmd2.getLsbD 4 ∧ f.request.tele = f.cmd2.getLsbD 5
    ∧ f.request.wide = f.cmd2.getLsbD 6 ∧ f.request.pan = f.data1 ∧ f.request.tilt = f.data2
    ∧ (f.checksumOk = true ↔ f.checksum.toNat
        = (f.addr.toNat + f.cmd1.toNat + f.cmd2.toNat + f.data1.toNat + f.data2.toNat) % 255))
  ∧ (∀ q : Request, ¬(q.tele = true ∧ q.wide = true) → (frameEncode q).request = q)
  ∧ (∀ q : Request, q.tele = true → q.wide = true → (frameEncode q).request = { q with wide := false })
  ∧ (∀ q : Request, (frameEncode q).checksumOk = true)

/-! ### Decoding and encoding -/

/-- Decode and encode agree: the decoder reads a well-formed instruction back from its own bytes, with every operand,
among the instructions those bytes carry. -/
def Obligations.DecodeOfEncode : Prop :=
  ∀ i : Instr, i.wellFormed = true → ∃ is, decode (encode i) = .ok is ∧ i ∈ is

/-- The decoder built from the opcode table takes exactly the frames that `Encode` produces, over all requests, and
refuses by name every frame of a shape that the block never produces, and every length but a frame's 7 bytes and the
control vector's one byte. The decoder, its refusals and the order in which it names them are the model's choice,
notes/assumptions/9.md, after 93_implementation_defined.md U8 ("refuse in any decoder built from the opcode table"). -/
def Obligations.DecoderTakesExactlyTheProducedFrames : Prop :=
  (∀ f : Frame, (∃ is, decode f.bytes = .ok is) ↔ ∃ q : Request, f = frameEncode q)
  ∧ (∀ f : Frame, f.sync ≠ 0xFF#8 → decode f.bytes = .error .sync)
  ∧ (∀ f : Frame, f.cmd1 ≠ 0x00#8 → ∃ r, decode f.bytes = .error r)
  ∧ (∀ f : Frame, f.cmd2.getLsbD 7 = true ∨ f.cmd2.getLsbD 0 = true → ∃ r, decode f.bytes = .error r)
  ∧ (∀ f : Frame, f.cmd2.getLsbD 5 = true → f.cmd2.getLsbD 6 = true → ∃ r, decode f.bytes = .error r)
  ∧ (∀ f : Frame, f.checksum.toNat
      ≠ (f.addr.toNat + f.cmd1.toNat + f.cmd2.toNat + f.data1.toNat + f.data2.toNat) % 255 →
      ∃ r, decode f.bytes = .error r)
  ∧ (∀ f : Frame, f.checksum = 0xFF#8 → ∃ r, decode f.bytes = .error r)
  ∧ (∀ bs : List Byte, bs.length ≠ 1 → bs.length ≠ 7 → decode bs = .error .length)

/-- Two designs of the frame agree: the algorithm of 40_frame_encode.md, OR-ing masks, and the layout and bit map
tables of 30_encoding.md, placing bits. -/
def Obligations.AlgorithmAgreesWithTheLayoutTable : Prop := ∀ q : Request, frameEncode q = layoutFrame q

/-- R66: the frame of a request carries the command of every flag in it, in any combination, and STOP exactly when
cmd2 is 0x00; each row's match and mask are those of the table. -/
def Obligations.FrameCarriesEveryCommandItMatches : Prop :=
  (∀ (w : Frame56) (c : FrameCmd), c ∈ commandsOf w ↔ w &&& c.mask = c.pattern)
  ∧ (∀ q : Request,
    (FrameCmd.stop ∈ commandsOf (frameEncode q).packed ↔ (frameEncode q).cmd2 = 0x00#8)
    ∧ (FrameCmd.panRight ∈ commandsOf (frameEncode q).packed ↔ q.right = true)
    ∧ (FrameCmd.panLeft ∈ commandsOf (frameEncode q).packed ↔ q.left = true)
    ∧ (FrameCmd.tiltUp ∈ commandsOf (frameEncode q).packed ↔ q.up = true)
    ∧ (FrameCmd.tiltDown ∈ commandsOf (frameEncode q).packed ↔ q.down = true)
    ∧ (FrameCmd.zoomTele ∈ commandsOf (frameEncode q).packed ↔ q.tele = true)
    ∧ (FrameCmd.zoomWide ∈ commandsOf (frameEncode q).packed ↔ q.wide = true ∧ q.tele = false))
  ∧ ([FrameCmd.stop, .panRight, .panLeft, .tiltUp, .tiltDown, .zoomTele, .zoomWide].map FrameCmd.pattern
      = [0xFF000000000000#56, 0xFF000002000000#56, 0xFF000004000000#56, 0xFF000008000000#56, 0xFF000010000000#56,
        0xFF000020000000#56, 0xFF000040000000#56])
  ∧ ([FrameCmd.stop, .panRight, .panLeft, .tiltUp, .tiltDown, .zoomTele, .zoomWide].map FrameCmd.mask
      = [0xFF00FFFF000000#56, 0xFF00FF83000000#56, 0xFF00FF85000000#56, 0xFF00FF89000000#56, 0xFF00FF91000000#56,
        0xFF00FFE1000000#56, 0xFF00FFE1000000#56])

/-- R69: every frame is 7 bytes; where a byte of a frame may be 0xFF and where it never is, in the contract and outside
it. -/
def Obligations.FrameLengthAndWhereFFStands : Prop :=
  (∀ q : Request, (frameEncode q).bytes.length = 7)
  ∧ (∃ q : Request, contract q = true ∧ (frameEncode q).addr = 0xFF#8)
  ∧ (∀ q : Request, contract q = true → (frameEncode q).cmd1 ≠ 0xFF#8 ∧ (frameEncode q).cmd2 ≠ 0xFF#8
      ∧ (frameEncode q).data1 ≠ 0xFF#8 ∧ (frameEncode q).data2 ≠ 0xFF#8)
  ∧ (∀ q : Request, (frameEncode q).checksum ≠ 0xFF#8)
  ∧ (∃ q : Request, (frameEncode q).data1 = 0xFF#8 ∧ (frameEncode q).data2 = 0xFF#8)

/-- R71: the fields of the stimulus word by their bits; the word and the inputs of a step are the same thing, both
ways; without a request its bits 29:0 have
no effect on a step, and the assembler writes them as 0; and with at most one zoom flag the flag field is cmd2[6:1]. -/
def Obligations.StimulusWordRoundTrip : Prop :=
  (∀ w : Step33, (decodeStep33 w).rst = w.getLsbD 32 ∧ (decodeStep33 w).inValid = w.getLsbD 31
    ∧ (decodeStep33 w).outReady = w.getLsbD 30 ∧ (decodeStep33 w).req.addr = w.extractLsb' 22 8
    ∧ (decodeStep33 w).req.wide = w.getLsbD 21 ∧ (decodeStep33 w).req.tele = w.getLsbD 20
    ∧ (decodeStep33 w).req.down = w.getLsbD 19 ∧ (decodeStep33 w).req.up = w.getLsbD 18
    ∧ (decodeStep33 w).req.left = w.getLsbD 17 ∧ (decodeStep33 w).req.right = w.getLsbD 16
    ∧ (decodeStep33 w).req.pan = w.extractLsb' 8 8 ∧ (decodeStep33 w).req.tilt = w.extractLsb' 0 8)
  ∧ (∀ p : Inputs, decodeStep33 (encodeStep33 p) = p)
  ∧ (∀ w : Step33, encodeStep33 (decodeStep33 w) = w)
  ∧ (∀ (s : State) (w w' : Step33), w.getLsbD 31 = false → w.extractLsb' 30 3 = w'.extractLsb' 30 3 →
      step { s with ports := decodeStep33 w } = step { s with ports := decodeStep33 w' })
  ∧ (∀ (line : List Char) (ps : List Inputs), assembleLine line = some ps → ∀ p ∈ ps, p.inValid = false →
      (encodeStep33 p).extractLsb' 0 30 = 0#30)
  ∧ (∀ q : Request, ¬(q.tele = true ∧ q.wide = true) → flagField q = (frameEncode q).cmd2.extractLsb' 1 6)

/-- Words written out from the spec's encodings decode to the instructions they stand for: the frame FF 01 00 04 1C 00
21 (95_test_vectors.md W1), the frame of E11, which carries three commands, the STOP frame of E10, the five control
vectors, and the stimulus word 080421C00 of P1. -/
def Obligations.WrittenOutWordsDecode : Prop :=
  decode [0xFF#8, 0x01#8, 0x00#8, 0x04#8, 0x1C#8, 0x00#8, 0x21#8]
      = .ok [.panLeft ⟨0x01#8, false, true, false, false, false, false, 0x1C#8, 0x00#8⟩]
  ∧ decode [0xFF#8, 0x01#8, 0x00#8, 0x2A#8, 0x10#8, 0x08#8, 0x43#8]
      = .ok [.panRight ⟨0x01#8, true, false, true, false, true, false, 0x10#8, 0x08#8⟩,
        .tiltUp ⟨0x01#8, true, false, true, false, true, false, 0x10#8, 0x08#8⟩,
        .zoomTele ⟨0x01#8, true, false, true, false, true, false, 0x10#8, 0x08#8⟩]
  ∧ decode [0xFF#8, 0x01#8, 0x00#8, 0x00#8, 0x00#8, 0x00#8, 0x01#8]
      = .ok [.stop ⟨0x01#8, false, false, false, false, false, false, 0x00#8, 0x00#8⟩]
  ∧ decode [0x0B#8] = .ok [.reset] ∧ decode [0x01#8] = .ok [.idle] ∧ decode [0x03#8] = .ok [.accept]
  ∧ decode [0x07#8] = .ok [.emit] ∧ decode [0x06#8] = .ok [.stall]
  ∧ decodeStep33 0x080421C00#33
      = ⟨false, true, false, ⟨0x01#8, false, true, false, false, false, false, 0x1C#8, 0x00#8⟩⟩

/-- R72, on lines of the programs of 95_test_vectors.md section 5: P1's `step rst` and `step req(01,L,1C,00)`, P2's
`step x6 req(01,W,00,00) rdy   ; request held`, one word a step, and lines the grammar does not give. -/
def Obligations.ProgramLinesAssemble : Prop :=
  assemble ["step rst".toList, "step req(01,L,1C,00)".toList, "step x2 rdy".toList]
      = some [0x100000000#33, 0x080421C00#33, 0x040000000#33, 0x040000000#33]
  ∧ assemble ["step x6 req(01,W,00,00) rdy   ; request held".toList] = some (List.replicate 6 0x0C0600000#33)
  ∧ assemble ["step rst req(FF,LDW,39,39) rdy".toList] = some [0x1FFEA3939#33]
  ∧ assemble ["step req(01,TWRU,10,08)".toList, "step req(01,-,00,00) rdy".toList]
      = some [0x080751008#33, 0x0C0400000#33]
  ∧ assemble ["step req(01,LL,10,08)".toList] = none ∧ assemble ["step x0 rdy".toList] = none

/-- R67: no request, in the contract or not, gives a frame of any of the six shapes: another sync byte, another cmd1,
cmd2 bit 7 or bit 0 set, both zoom bits, a wrong checksum, a checksum of 0xFF. -/
def Obligations.ShapesNeverProduced : Prop :=
  ∀ f : Frame,
    f.sync ≠ 0xFF#8 ∨ f.cmd1 ≠ 0x00#8 ∨ f.cmd2.getLsbD 7 = true ∨ f.cmd2.getLsbD 0 = true
      ∨ (f.cmd2.getLsbD 5 = true ∧ f.cmd2.getLsbD 6 = true)
      ∨ f.checksum.toNat
        ≠ (f.addr.toNat + f.cmd1.toNat + f.cmd2.toNat + f.data1.toNat + f.data2.toNat) % 255
      ∨ f.checksum = 0xFF#8 →
    ∀ q : Request, frameEncode q ≠ f
end

