-- ==== Sys2Proof/Laws/Decode.lean ====
section
/-! SUPPORT. The opcode table's rows read byte by byte, and the frame layout. -/

namespace Sys2Proof

/-- The cmd2 byte of a FRAME-56 row's mask, as the table of R66 prints it. -/
def FrameCmd.cmd2Mask : FrameCmd → Byte
  | .stop => 0xFF#8
  | .panRight => 0x83#8
  | .panLeft => 0x85#8
  | .tiltUp => 0x89#8
  | .tiltDown => 0x91#8
  | .zoomTele => 0xE1#8
  | .zoomWide => 0xE1#8

/-- The cmd2 byte of a FRAME-56 row's match, as the table of R66 prints it. -/
def FrameCmd.cmd2Pattern : FrameCmd → Byte
  | .stop => 0x00#8
  | .panRight => 0x02#8
  | .panLeft => 0x04#8
  | .tiltUp => 0x08#8
  | .tiltDown => 0x10#8
  | .zoomTele => 0x20#8
  | .zoomWide => 0x40#8

theorem FrameCmd.mask_eq_bytes (c : FrameCmd) :
    c.mask = (0xFF#8 ++ 0x00#8 ++ 0xFF#8 ++ c.cmd2Mask ++ 0x00#8 ++ 0x00#8 ++ 0x00#8 : Frame56) := by
  cases c <;> rfl

theorem FrameCmd.pattern_eq_bytes (c : FrameCmd) :
    c.pattern = (0xFF#8 ++ 0x00#8 ++ 0x00#8 ++ c.cmd2Pattern ++ 0x00#8 ++ 0x00#8 ++ 0x00#8 : Frame56) := by
  cases c <;> rfl

theorem append_byte_inj {n : Nat} {x x' : BitVec n} {y y' : Byte} :
    x ++ y = x' ++ y' ↔ x = x' ∧ y = y' := by
  constructor
  · intro h
    refine ⟨?_, ?_⟩ <;> apply BitVec.eq_of_getLsbD_eq <;> intro i hi
    · have := congrArg (fun z => z.getLsbD (i + 8)) h
      simpa [BitVec.getLsbD_append] using this
    · have := congrArg (fun z => z.getLsbD i) h
      simpa [BitVec.getLsbD_append, hi] using this
  · rintro ⟨rfl, rfl⟩; rfl

/-- A byte above the last one of an appended value is a byte of the rest. -/
theorem extractByte_append {n : Nat} (x : BitVec n) (y : Byte) (k : Nat) :
    (x ++ y).extractLsb' (k + 8) 8 = x.extractLsb' k 8 := by
  apply BitVec.eq_of_getLsbD_eq
  intro i hi
  have h : ¬k + 8 + i < 8 := by omega
  simp only [BitVec.getLsbD_extractLsb', hi, decide_true, Bool.true_and, BitVec.getLsbD_append, h, if_false]
  simp only [show k + 8 + i - 8 = k + i by omega]

/-- The last byte of an appended value. -/
theorem extractByte_append_last {n : Nat} (x : BitVec n) (y : Byte) : (x ++ y).extractLsb' 0 8 = y := by
  apply BitVec.eq_of_getLsbD_eq
  intro i hi
  simp [BitVec.getLsbD_append, hi]

theorem and_seven (a b c d e f g a' b' c' d' e' f' g' : Byte) :
    (a ++ b ++ c ++ d ++ e ++ f ++ g) &&& (a' ++ b' ++ c' ++ d' ++ e' ++ f' ++ g')
      = (a &&& a') ++ (b &&& b') ++ (c &&& c') ++ (d &&& d') ++ (e &&& e') ++ (f &&& f') ++ (g &&& g') := by
  simp only [BitVec.and_append]

theorem seven_inj {a b c d e f g a' b' c' d' e' f' g' : Byte} :
    a ++ b ++ c ++ d ++ e ++ f ++ g = a' ++ b' ++ c' ++ d' ++ e' ++ f' ++ g'
      ↔ a = a' ∧ b = b' ∧ c = c' ∧ d = d' ∧ e = e' ∧ f = f' ∧ g = g' := by
  simp only [append_byte_inj, and_assoc]

/-- A frame carries a command exactly when its sync byte, cmd1 and the command's bits of cmd2 are the row's (R66). -/
theorem FrameCmd.covers_packed_iff (c : FrameCmd) (f : Frame) :
    c.covers f.packed = true ↔ f.sync = 0xFF#8 ∧ f.cmd1 = 0x00#8 ∧ f.cmd2 &&& c.cmd2Mask = c.cmd2Pattern := by
  have hff (b : Byte) : b &&& 0xFF#8 = b := by
    rw [show (0xFF#8 : Byte) = BitVec.allOnes 8 from rfl, BitVec.and_allOnes]
  have h00 (b : Byte) : b &&& 0x00#8 = 0x00#8 := BitVec.and_zero
  unfold FrameCmd.covers Frame.packed
  rw [c.mask_eq_bytes, c.pattern_eq_bytes, beq_iff_eq]
  refine Iff.trans (Eq.congr_left (and_seven ..)) (seven_inj.trans ?_)
  simp only [hff, h00]
  tauto

/-- Unpacking a packed frame gives it back (R17). -/
theorem Frame.ofPacked_packed (f : Frame) : Frame.ofPacked f.packed = f := by
  obtain ⟨a, b, c, d, e, g, h⟩ := f
  simp only [Frame.ofPacked, Frame.packed, Frame.mk.injEq]
  refine ⟨?_, ?_, ?_, ?_, ?_, ?_, ?_⟩
  · exact (extractByte_append _ h 40).trans ((extractByte_append _ g 32).trans ((extractByte_append _ e 24).trans
      ((extractByte_append _ d 16).trans ((extractByte_append _ c 8).trans ((extractByte_append _ b 0).trans
        (by simp))))))
  · exact (extractByte_append _ h 32).trans ((extractByte_append _ g 24).trans ((extractByte_append _ e 16).trans
      ((extractByte_append _ d 8).trans ((extractByte_append _ c 0).trans (extractByte_append_last _ b)))))
  · exact (extractByte_append _ h 24).trans ((extractByte_append _ g 16).trans ((extractByte_append _ e 8).trans
      ((extractByte_append _ d 0).trans (extractByte_append_last _ c))))
  · exact (extractByte_append _ h 16).trans ((extractByte_append _ g 8).trans ((extractByte_append _ e 0).trans
      (extractByte_append_last _ d)))
  · exact (extractByte_append _ h 8).trans ((extractByte_append _ g 0).trans (extractByte_append_last _ e))
  · exact (extractByte_append _ h 0).trans (extractByte_append_last _ g)
  · exact extractByte_append_last _ h

/-- The one bit of a Boolean. -/
theorem ofBool_getLsbD (b : Bool) (i : Nat) : (BitVec.ofBool b).getLsbD i = (decide (i = 0) && b) := by
  cases b <;> cases i <;> simp

/-- The flag field, bit by bit (R71). -/
theorem flagField_getLsbD (q : Request) (i : Nat) :
    (flagField q).getLsbD i =
      if i < 1 then q.right else if i < 2 then q.left else if i < 3 then q.up else if i < 4 then q.down
      else if i < 5 then q.tele else decide (i < 6) && q.wide := by
  have h : (flagField q).getLsbD i = (BitVec.ofBool q.wide ++ BitVec.ofBool q.tele ++ BitVec.ofBool q.down
      ++ BitVec.ofBool q.up ++ BitVec.ofBool q.left ++ BitVec.ofBool q.right).getLsbD i := rfl
  rw [h]
  grind [ofBool_getLsbD]

/-- The stimulus word, bit by bit (R71). -/
theorem encodeStep33_getLsbD (p : Inputs) (i : Nat) :
    (encodeStep33 p).getLsbD i =
      if i < 8 then p.req.tilt.getLsbD i else if i < 16 then p.req.pan.getLsbD (i - 8)
      else if i < 22 then (flagField p.req).getLsbD (i - 16) else if i < 30 then p.req.addr.getLsbD (i - 22)
      else if i < 31 then p.outReady else if i < 32 then p.inValid else decide (i < 33) && p.rst := by
  have h : (encodeStep33 p).getLsbD i = (BitVec.ofBool p.rst ++ BitVec.ofBool p.inValid ++ BitVec.ofBool p.outReady
      ++ p.req.addr ++ flagField p.req ++ p.req.pan ++ p.req.tilt).getLsbD i := rfl
  rw [h]
  grind [ofBool_getLsbD]

end Sys2Proof
end

