-- ==== Sys2Proof/Laws/State.lean ====
section
/-! SUPPORT. One lemma per field of the state and per named update, so that no later proof unfolds a record
update. -/

namespace Sys2Proof.Machine

@[simp] theorem State.resetBlock_busy (s : State) : s.resetBlock.busy = some false := rfl
@[simp] theorem State.resetBlock_idx (s : State) : s.resetBlock.idx = some 0#3 := rfl
@[simp] theorem State.resetBlock_frame (s : State) : s.resetBlock.frame = FrameReg.empty := rfl
@[simp] theorem State.resetBlock_m (s : State) : s.resetBlock.m = s.m := rfl
@[simp] theorem State.resetBlock_policy (s : State) : s.resetBlock.policy = s.policy := rfl
@[simp] theorem State.resetBlock_steps (s : State) : s.resetBlock.steps = s.steps := rfl
@[simp] theorem State.resetBlock_ports (s : State) : s.resetBlock.ports = s.ports := rfl
@[simp] theorem State.resetBlock_schedule (s : State) : s.resetBlock.schedule = s.schedule := rfl

@[simp] theorem State.capture_busy (f : Frame) (s : State) : (s.capture f).busy = some true := rfl
@[simp] theorem State.capture_idx (f : Frame) (s : State) : (s.capture f).idx = some 0#3 := rfl
@[simp] theorem State.capture_frame (f : Frame) (s : State) : (s.capture f).frame = FrameReg.ofFrame f := rfl
@[simp] theorem State.capture_m (f : Frame) (s : State) : (s.capture f).m = s.m := rfl
@[simp] theorem State.capture_policy (f : Frame) (s : State) : (s.capture f).policy = s.policy := rfl
@[simp] theorem State.capture_steps (f : Frame) (s : State) : (s.capture f).steps = s.steps := rfl
@[simp] theorem State.capture_ports (f : Frame) (s : State) : (s.capture f).ports = s.ports := rfl
@[simp] theorem State.capture_schedule (f : Frame) (s : State) : (s.capture f).schedule = s.schedule := rfl

@[simp] theorem State.markInferred_busy (q : Request) (s : State) : (s.markInferred q).busy = s.busy := rfl
@[simp] theorem State.markInferred_idx (q : Request) (s : State) : (s.markInferred q).idx = s.idx := rfl
@[simp] theorem State.markInferred_frame (q : Request) (s : State) : (s.markInferred q).frame = s.frame := rfl
@[simp] theorem State.markInferred_m (q : Request) (s : State) : (s.markInferred q).m = { s.m with inferred := s.m.inferred ++ [q] } := rfl
@[simp] theorem State.markInferred_policy (q : Request) (s : State) : (s.markInferred q).policy = s.policy := rfl
@[simp] theorem State.markInferred_steps (q : Request) (s : State) : (s.markInferred q).steps = s.steps := rfl
@[simp] theorem State.markInferred_ports (q : Request) (s : State) : (s.markInferred q).ports = s.ports := rfl
@[simp] theorem State.markInferred_schedule (q : Request) (s : State) : (s.markInferred q).schedule = s.schedule := rfl

@[simp] theorem State.emitByte_busy (b : Byte) (s : State) : (s.emitByte b).busy = s.busy := rfl
@[simp] theorem State.emitByte_idx (b : Byte) (s : State) : (s.emitByte b).idx = s.idx := rfl
@[simp] theorem State.emitByte_frame (b : Byte) (s : State) : (s.emitByte b).frame = s.frame := rfl
@[simp] theorem State.emitByte_m (b : Byte) (s : State) : (s.emitByte b).m = { s.m with stream := s.m.stream ++ [b] } := rfl
@[simp] theorem State.emitByte_policy (b : Byte) (s : State) : (s.emitByte b).policy = s.policy := rfl
@[simp] theorem State.emitByte_steps (b : Byte) (s : State) : (s.emitByte b).steps = s.steps := rfl
@[simp] theorem State.emitByte_ports (b : Byte) (s : State) : (s.emitByte b).ports = s.ports := rfl
@[simp] theorem State.emitByte_schedule (b : Byte) (s : State) : (s.emitByte b).schedule = s.schedule := rfl

@[simp] theorem State.advance_busy (s : State) : s.advance.busy = s.busy := rfl
@[simp] theorem State.advance_idx (s : State) : s.advance.idx = s.idx := rfl
@[simp] theorem State.advance_frame (s : State) : s.advance.frame = s.frame := rfl
@[simp] theorem State.advance_m (s : State) : s.advance.m = s.m := rfl
@[simp] theorem State.advance_policy (s : State) : s.advance.policy = s.policy := rfl
@[simp] theorem State.advance_steps (s : State) : s.advance.steps = s.steps + 1 := rfl
@[simp] theorem State.advance_ports (s : State) : s.advance.ports = s.nextPorts := rfl
@[simp] theorem State.advance_schedule (s : State) : s.advance.schedule = s.schedule.tail := rfl

@[simp] theorem State.nextIndex_busy (i : BitVec 3) (s : State) :
    (s.nextIndex i).busy = if i = 6#3 then some false else s.busy := by
  unfold State.nextIndex; split <;> rfl

@[simp] theorem State.nextIndex_idx (i : BitVec 3) (s : State) :
    (s.nextIndex i).idx = if i = 6#3 then some 0#3 else some (i + 1#3) := by
  unfold State.nextIndex; split <;> rfl

@[simp] theorem State.nextIndex_frame (i : BitVec 3) (s : State) : (s.nextIndex i).frame = s.frame := by
  unfold State.nextIndex; split <;> rfl

@[simp] theorem State.nextIndex_m (i : BitVec 3) (s : State) : (s.nextIndex i).m = s.m := by
  unfold State.nextIndex; split <;> rfl

@[simp] theorem State.nextIndex_policy (i : BitVec 3) (s : State) : (s.nextIndex i).policy = s.policy := by
  unfold State.nextIndex; split <;> rfl

@[simp] theorem State.nextIndex_steps (i : BitVec 3) (s : State) : (s.nextIndex i).steps = s.steps := by
  unfold State.nextIndex; split <;> rfl

@[simp] theorem State.nextIndex_ports (i : BitVec 3) (s : State) : (s.nextIndex i).ports = s.ports := by
  unfold State.nextIndex; split <;> rfl

@[simp] theorem State.nextIndex_schedule (i : BitVec 3) (s : State) : (s.nextIndex i).schedule = s.schedule := by
  unfold State.nextIndex; split <;> rfl

end Sys2Proof.Machine
end

