-- ==== Sys2Proof/Laws/Ops.lean ====
section
/-! SUPPORT. What each shared operation can do, said once: the frame register, the check of R110, acceptance, emission,
the selection of a step's operation and the step itself. -/

namespace Sys2Proof.Machine

/-! ### The frame register -/

@[simp] theorem FrameReg.full_ofFrame (f : Frame) : (FrameReg.ofFrame f).full = true := rfl

theorem FrameReg.eq_ofFrame_of_full {r : FrameReg} (h : r.full = true) : ∃ f, r = FrameReg.ofFrame f := by
  obtain ⟨a, b, c, d, e, f, g⟩ := r
  simp only [FrameReg.full, Bool.and_eq_true, Option.isSome_iff_exists] at h
  obtain ⟨⟨⟨⟨⟨⟨⟨a, rfl⟩, b, rfl⟩, c, rfl⟩, d, rfl⟩, e, rfl⟩, f, rfl⟩, g, rfl⟩ := h
  exact ⟨⟨a, b, c, d, e, f, g⟩, rfl⟩

theorem FrameReg.full_eq_false_iff (r : FrameReg) : r.full = false ↔ none ∈ r.bytes := by
  obtain ⟨a, b, c, d, e, f, g⟩ := r
  cases a <;> cases b <;> cases c <;> cases d <;> cases e <;> cases f <;> cases g <;>
    simp [FrameReg.full, FrameReg.bytes]

/-- An index from 0 to 6 reads the byte of the frame at that place. -/
theorem FrameReg.byteAt_ofFrame (f : Frame) (i : BitVec 3) :
    (FrameReg.ofFrame f).byteAt i = f.bytes[i.toNat]? := by
  have h : i.toNat < 8 := i.isLt
  unfold FrameReg.byteAt
  split <;> rename_i hi <;> try (rw [hi]; rfl)
  have : i.toNat = 7 := by
    grind
  rw [this]; rfl

theorem FrameReg.byteAt_ofFrame_isSome (f : Frame) {i : BitVec 3} (h : i ≠ 7#3) :
    ∃ b, (FrameReg.ofFrame f).byteAt i = some b := by
  rw [FrameReg.byteAt_ofFrame]
  have h8 : i.toNat < 8 := i.isLt
  have h7 : i.toNat ≠ 7 := fun e => h (BitVec.eq_of_toNat_eq e)
  exact ⟨_, List.getElem?_eq_getElem (by simp [Frame.bytes]; omega)⟩

/-! ### The check of R110 -/

theorem State.wellFormed_iff (s : State) :
    s.wellFormed = true ↔ s.Idling ∨ ∃ f i, s.Sending f i := by
  unfold State.wellFormed State.Idling State.Sending
  split
  · rename_i b i hb hi
    cases b
    · simp [hb, hi]
    · simp only [hb, hi, Bool.not_true, Bool.false_or, Bool.and_eq_true, bne_iff_ne, ne_eq]
      constructor
      · rintro ⟨h7, hf⟩
        obtain ⟨f, hf⟩ := FrameReg.eq_ofFrame_of_full hf
        exact Or.inr ⟨f, i, trivial, rfl, h7, hf⟩
      · rintro (⟨h, -⟩ | ⟨f, j, -, hj, h7, hf⟩)
        · simp at h
        · cases hj
          exact ⟨h7, by rw [hf]; rfl⟩
  · rename_i h
    constructor
    · simp
    · rintro (⟨hb, i, hi, -⟩ | ⟨f, i, hb, hi, -⟩)
      · exact absurd hi (h _ _ hb)
      · exact absurd hi (h _ _ hb)

theorem State.Idling.wellFormed {s : State} (h : s.Idling) : s.wellFormed = true :=
  s.wellFormed_iff.2 (Or.inl h)

theorem State.Sending.wellFormed {s : State} {f : Frame} {i : BitVec 3} (h : s.Sending f i) :
    s.wellFormed = true :=
  s.wellFormed_iff.2 (Or.inr ⟨f, i, h⟩)

theorem State.illFormed_iff (s : State) : s.IllFormed ↔ s.wellFormed = false := by
  unfold State.IllFormed State.wellFormed
  rw [← FrameReg.full_eq_false_iff]
  rcases s.busy with _ | _ | _ <;> rcases s.idx with _ | i <;> simp
  tauto

theorem guarded_of_wellFormed {s : State} (h : s.wellFormed = true) (k : Host.Outcome State Fault Refusal) :
    guarded s k = k := by
  simp [guarded, h]

theorem guarded_eq_next {s t : State} {k : Host.Outcome State Fault Refusal} (h : guarded s k = .next t) :
    s.wellFormed = true ∧ k = .next t := by
  unfold guarded at h
  split at h
  · exact ⟨‹_›, h⟩
  · cases h

/-! ### Acceptance and emission -/

/-- Acceptance captures the request's frame, with the INFERRED mark if the request is outside the contract. -/
theorem acceptRequest_eq_next {q : Request} {s t : State} (h : acceptRequest q s = .next t) :
    (contract q = true ∧ t = s.capture (frameEncode q))
      ∨ (contract q = false ∧ s.policy = .compute ∧ t = (s.capture (frameEncode q)).markInferred q) := by
  unfold acceptRequest at h
  split at h
  · cases h; exact Or.inl ⟨‹_›, rfl⟩
  · split at h
    · cases h
    · cases h; exact Or.inr ⟨Bool.eq_false_iff.2 ‹¬contract q = true›, ‹_›, rfl⟩

/-- Acceptance never faults. -/
theorem acceptRequest_ne_fault (q : Request) (s : State) (r : Fault) : acceptRequest q s ≠ .fault r := by
  unfold acceptRequest
  split
  · simp
  · split <;> simp [refuseContract]

/-- A request is refused exactly outside the contract under `refuse`, with all failing codes. -/
theorem acceptRequest_eq_refused {q : Request} {s : State} {r : Refusal} :
    acceptRequest q s = .refused r ↔ contract q = false ∧ s.policy = .refuse
      ∧ r = .contractViolation (reasons q) { s.m with refused := true } := by
  unfold acceptRequest
  split
  · rename_i hc
    simp [hc]
  · rename_i hc
    split <;> rename_i hp
    · simp [refuseContract, hc, hp, eq_comm]
    · simp [hp]

/-- Emission in a busy well-formed state appends the offered byte and moves the index. -/
theorem emitOffered_of_sending {s : State} {f : Frame} {i : BitVec 3} (h : s.Sending f i) {b : Byte}
    (hb : f.bytes[i.toNat]? = some b) : emitOffered s = .next ((s.emitByte b).nextIndex i) := by
  obtain ⟨-, hi, -, hf⟩ := h
  rw [← FrameReg.byteAt_ofFrame] at hb
  simp only [emitOffered, hi, hf, hb]

/-- If emission answers a next state, a byte of the register was emitted. -/
theorem emitOffered_eq_next {s t : State} (h : emitOffered s = .next t) :
    ∃ i b, s.idx = some i ∧ s.frame.byteAt i = some b ∧ t = (s.emitByte b).nextIndex i := by
  unfold emitOffered at h
  split at h
  · cases h
  · split at h
    · cases h
    · cases h; exact ⟨_, _, ‹_›, ‹_›, rfl⟩

/-! ### Selection and the step -/

theorem State.selected_rst {s : State} {p : Inputs} (h : p.rst = true) : s.selected p = some .reset := by
  unfold State.selected
  cases hb : s.busy with
  | none => simp [h]; cases p.inValid <;> cases p.outReady <;> rfl
  | some b => simp [h]; cases b <;> cases p.inValid <;> cases p.outReady <;> rfl

theorem State.selected_idle {s : State} {p : Inputs} (hr : p.rst = false) (hb : s.busy = some false) :
    s.selected p = some (if p.inValid then .accept else .idle) := by
  unfold State.selected
  simp only [hr, hb]
  cases p.inValid <;> cases p.outReady <;> rfl

theorem State.selected_busy {s : State} {p : Inputs} (hr : p.rst = false) (hb : s.busy = some true) :
    s.selected p = some (if p.outReady then .emit else .stall) := by
  unfold State.selected
  simp only [hr, hb]
  cases p.inValid <;> cases p.outReady <;> rfl

theorem State.selected_none {s : State} {p : Inputs} (hr : p.rst = false) (hb : s.busy = none) :
    s.selected p = none := by
  simp [State.selected, hr, hb]

/-- The step function of R119 by its cases. -/
theorem performWith_cases (p : Inputs) (s : State) :
    (p.rst = true ∧ performWith p s = .next s.resetBlock)
      ∨ (p.rst = false ∧ s.wellFormed = false ∧ performWith p s = faultUninitialised s)
      ∨ (p.rst = false ∧ s.Idling ∧ p.inValid = false ∧ performWith p s = .next s)
      ∨ (p.rst = false ∧ s.Idling ∧ p.inValid = true ∧ performWith p s = acceptRequest p.req s)
      ∨ (p.rst = false ∧ (∃ f i, s.Sending f i) ∧ p.outReady = true ∧ performWith p s = emitOffered s)
      ∨ (p.rst = false ∧ (∃ f i, s.Sending f i) ∧ p.outReady = false ∧ performWith p s = .next s) := by
  cases hr : p.rst with
  | true => exact Or.inl ⟨rfl, by simp [performWith, State.selected_rst hr, execReset]⟩
  | false =>
    right
    cases hw : s.wellFormed with
    | false =>
      refine Or.inl ⟨rfl, rfl, ?_⟩
      rcases hb : s.busy with _ | _ | _
      · simp [performWith, State.selected_none hr hb]
      · cases hv : p.inValid <;> simp [performWith, State.selected_idle hr hb, hv, execIdle, guarded, hw]
      · cases ho : p.outReady <;> simp [performWith, State.selected_busy hr hb, ho, execEmit, execStall, guarded, hw]
    | true =>
      right
      rcases s.wellFormed_iff.1 hw with h | ⟨f, i, h⟩
      · cases hv : p.inValid
        · exact Or.inl ⟨rfl, h, rfl, by simp [performWith, State.selected_idle hr h.1, hv, execIdle, guarded, hw]⟩
        · exact Or.inr (Or.inl ⟨rfl, h, rfl, by simp [performWith, State.selected_idle hr h.1, hv, guarded, hw]⟩)
      · cases ho : p.outReady
        · exact Or.inr (Or.inr (Or.inr ⟨rfl, ⟨f, i, h⟩, rfl, by
            simp [performWith, State.selected_busy hr h.1, ho, execStall, guarded, hw]⟩))
        · exact Or.inr (Or.inr (Or.inl ⟨rfl, ⟨f, i, h⟩, rfl, by
            simp [performWith, State.selected_busy hr h.1, ho, execEmit, guarded, hw]⟩))

/-- The instruction of a selected operation is what `performWith` runs on the ports of the state. -/
theorem exec_toInstr (s : State) {o : CtlOp} (h : s.selected s.ports = some o) :
    exec o.toInstr s = performWith s.ports s := by
  unfold performWith
  rw [h]
  cases o <;> rfl

/-- The step is `performWith` on the ports of the state, and what a step does around it. -/
theorem step_eq_performWith (s : State) : step s = finishStep (performWith s.ports s) := by
  unfold step State.fetch
  cases h : s.selected s.ports with
  | none => simp [performWith, h]
  | some o => simp [exec_toInstr s h]

theorem finishStep_eq_next {o : Host.Outcome State Fault Refusal} {t : State} (h : finishStep o = .next t) :
    ∃ u, o = .next u ∧ t = u.advance := by
  cases o with
  | next u => cases h; exact ⟨u, rfl, rfl⟩
  | fault r => cases h
  | refused r => cases h

end Sys2Proof.Machine
end

