-- ==== Sys2Proof/Laws/PerInstr.lean ====
section
/-! SUPPORT. One law per instruction: the encoding of a well-formed instruction lies in its own row of the opcode
table (R66, R70). -/

namespace Sys2Proof.Laws.RowMatch

/-- What the family says of a frame command: the packed frame of a well-formed term matches the command's row. -/
def OfCommand (c : FrameCmd) (q : Request) : Prop :=
  (c.toInstr q).wellFormed = true → c.covers (layoutFrame q).packed = true

/-- What the family says of an operation: its control byte matches its row and no other. -/
def OfOperation (o : CtlOp) : Prop := ∀ o' : CtlOp, o'.covers ((ctlByte o).extractLsb' 0 4) = true ↔ o' = o

/-- The instruction's encoding is in its row of spec/opcode_table.json. -/
def Statement : Instr → Prop
  | .stop q => OfCommand .stop q
  | .panRight q => OfCommand .panRight q
  | .panLeft q => OfCommand .panLeft q
  | .tiltUp q => OfCommand .tiltUp q
  | .tiltDown q => OfCommand .tiltDown q
  | .zoomTele q => OfCommand .zoomTele q
  | .zoomWide q => OfCommand .zoomWide q
  | .reset => OfOperation .reset
  | .idle => OfOperation .idle
  | .accept => OfOperation .accept
  | .emit => OfOperation .emit
  | .stall => OfOperation .stall

/-- A frame by the layout carries a command exactly when its cmd2 has the command's bits. -/
theorem covers_layout_iff (c : FrameCmd) (q : Request) :
    c.covers (layoutFrame q).packed = true ↔ cmd2Bits q &&& c.cmd2Mask = c.cmd2Pattern := by
  rw [FrameCmd.covers_packed_iff]
  simp [layoutFrame]

/-- A well-formed term's cmd2 has its command's bits: a check over the six flags. -/
theorem cmd2_of_wellFormed (c : FrameCmd) (q : Request) (h : (c.toInstr q).wellFormed = true) :
    cmd2Bits q &&& c.cmd2Mask = c.cmd2Pattern := by
  obtain ⟨addr, right, left, up, down, tele, wide, pan, tilt⟩ := q
  revert h right left up down tele wide
  cases c <;>
    simp only [FrameCmd.toInstr, Instr.wellFormed, Request.noFlags, Request.oneZoom, cmd2Bits, FrameCmd.cmd2Mask,
      FrameCmd.cmd2Pattern] <;>
    decide

theorem ofCommand (c : FrameCmd) (q : Request) : OfCommand c q := fun h =>
  (covers_layout_iff c q).2 (cmd2_of_wellFormed c q h)

theorem ofOperation (o : CtlOp) : OfOperation o := by
  cases o <;> intro o' <;> cases o' <;> decide

theorem stop (q : Request) : Statement (.stop q) := ofCommand .stop q
theorem panRight (q : Request) : Statement (.panRight q) := ofCommand .panRight q
theorem panLeft (q : Request) : Statement (.panLeft q) := ofCommand .panLeft q
theorem tiltUp (q : Request) : Statement (.tiltUp q) := ofCommand .tiltUp q
theorem tiltDown (q : Request) : Statement (.tiltDown q) := ofCommand .tiltDown q
theorem zoomTele (q : Request) : Statement (.zoomTele q) := ofCommand .zoomTele q
theorem zoomWide (q : Request) : Statement (.zoomWide q) := ofCommand .zoomWide q
theorem reset : Statement .reset := ofOperation .reset
theorem idle : Statement .idle := ofOperation .idle
theorem accept : Statement .accept := ofOperation .accept
theorem emit : Statement .emit := ofOperation .emit
theorem stall : Statement .stall := ofOperation .stall

end Sys2Proof.Laws.RowMatch
end

