-- ==== Sys2Proof/Laws/Step.lean ====
section
/-! SUPPORT. One case lemma for a step, and what the ports show in each phase of the block. -/

namespace Sys2Proof.Machine

/-- An idle block offers no byte. -/
theorem State.Idling.not_sending {s : State} {f : Frame} {i : BitVec 3} (h : s.Idling) : ¬s.Sending f i := by
  intro h'
  have := h.1.symm.trans h'.1
  cases this

/-- The byte that a sending block offers exists. -/
theorem State.Sending.exists_byte {s : State} {f : Frame} {i : BitVec 3} (h : s.Sending f i) :
    ∃ b, f.bytes[i.toNat]? = some b := by
  obtain ⟨b, hb⟩ := FrameReg.byteAt_ofFrame_isSome f h.2.2.1
  rw [FrameReg.byteAt_ofFrame] at hb
  exact ⟨b, hb⟩

/-- The outputs of an idle block (R117). -/
theorem State.Idling.outputs_eq {s : State} (h : s.Idling) :
    s.outputs false = some ⟨true, false, none, false⟩ := by
  have hw := h.wellFormed
  obtain ⟨hb, i, hi, -⟩ := h
  simp [State.outputs, hw, hb, hi, Outputs.running]

/-- The outputs of a sending block (R117). -/
theorem State.Sending.outputs_eq {s : State} {f : Frame} {i : BitVec 3} {b : Byte} (h : s.Sending f i)
    (hb : f.bytes[i.toNat]? = some b) : s.outputs false = some ⟨false, true, some b, i == 6#3⟩ := by
  have hw := h.wellFormed
  obtain ⟨hbu, hi, -, hf⟩ := h
  simp [State.outputs, hw, hbu, hi, Outputs.running, hf, FrameReg.byteAt_ofFrame, hb]

/-- Everything one step can do, by the operation it performs and, for an ACCEPT, by the contract and the policy. -/
theorem step_cases (s : State) :
    (s.ports.rst = true ∧ step s = .next s.resetBlock.advance)
    ∨ (s.ports.rst = false ∧ s.wellFormed = false
        ∧ step s = .fault (.uninitialisedState { s.m with fault := true }))
    ∨ (s.ports.rst = false ∧ s.Idling ∧ s.ports.inValid = false ∧ step s = .next s.advance)
    ∨ (s.ports.rst = false ∧ s.Idling ∧ s.ports.inValid = true ∧ contract s.ports.req = true
        ∧ step s = .next (s.capture (frameEncode s.ports.req)).advance)
    ∨ (s.ports.rst = false ∧ s.Idling ∧ s.ports.inValid = true ∧ contract s.ports.req = false ∧ s.policy = .compute
        ∧ step s = .next ((s.capture (frameEncode s.ports.req)).markInferred s.ports.req).advance)
    ∨ (s.ports.rst = false ∧ s.Idling ∧ s.ports.inValid = true ∧ contract s.ports.req = false ∧ s.policy = .refuse
        ∧ step s = .refused (.contractViolation (reasons s.ports.req) { s.m with refused := true }))
    ∨ (s.ports.rst = false ∧ s.ports.outReady = true ∧ ∃ f i b, s.Sending f i ∧ f.bytes[i.toNat]? = some b
        ∧ step s = .next ((s.emitByte b).nextIndex i).advance)
    ∨ (s.ports.rst = false ∧ s.ports.outReady = false ∧ (∃ f i, s.Sending f i) ∧ step s = .next s.advance) := by
  have hs := step_eq_performWith s
  rcases performWith_cases s.ports s with h | h | h | h | h | h
  · left; exact ⟨h.1, by rw [hs, h.2]; rfl⟩
  · right; left; exact ⟨h.1, h.2.1, by rw [hs, h.2.2]; rfl⟩
  · right; right; left; exact ⟨h.1, h.2.1, h.2.2.1, by rw [hs, h.2.2.2]; rfl⟩
  · have h4 := h.2.2.2
    cases hc : contract s.ports.req
    · cases hp : s.policy
      · right; right; right; right; right; left
        exact ⟨h.1, h.2.1, h.2.2.1, rfl, rfl, by
          rw [hs, h4]; simp [acceptRequest, hc, hp, refuseContract, finishStep]⟩
      · right; right; right; right; left
        exact ⟨h.1, h.2.1, h.2.2.1, rfl, rfl, by rw [hs, h4]; simp [acceptRequest, hc, hp, finishStep]⟩
    · right; right; right; left
      exact ⟨h.1, h.2.1, h.2.2.1, rfl, by rw [hs, h4]; simp [acceptRequest, hc, finishStep]⟩
  · obtain ⟨hr, ⟨f, i, hS⟩, ho, he⟩ := h
    obtain ⟨b, hb⟩ := hS.exists_byte
    right; right; right; right; right; right; left
    exact ⟨hr, ho, f, i, b, hS, hb, by rw [hs, he, emitOffered_of_sending hS hb]; rfl⟩
  · right; right; right; right; right; right; right
    exact ⟨h.1, h.2.2.1, h.2.1, by rw [hs, h.2.2.2]; rfl⟩

end Sys2Proof.Machine
end

