-- ==== Sys2Proof/Tests/Slice0.lean ====
section
/-! SUPPORT. The model's own tests, their expected values from 95_test_vectors.md or worked out by hand from the rules
it cites, and a witness for the hypotheses of each obligation that has any. -/

namespace Sys2Proof.Tests

open Sys2Proof Sys2Proof.Machine Host

/-! ### Helpers -/

/-- A request as the vectors write it: address, the flags R L U D T W, pan, tilt. -/
def req (addr : Byte) (r l u d t w : Bool) (pan tilt : Byte) : Request := ⟨addr, r, l, u, d, t, w, pan, tilt⟩

/-- W1's request. -/
def w1 : Request := req 0x01#8 false true false false false false 0x1C#8 0x00#8

/-- W2's request. -/
def w2 : Request := req 0x01#8 false false false false true false 0x00#8 0x00#8

/-- K6's request, outside the contract. -/
def k6 : Request := req 0x01#8 true true false false false false 0x10#8 0x00#8

/-- W1's frame, FF 01 00 04 1C 00 21. -/
def w1Frame : Frame := ⟨0xFF#8, 0x01#8, 0x00#8, 0x04#8, 0x1C#8, 0x00#8, 0x21#8⟩

/-- The input ports of one step. -/
def inputs (rst valid ready : Bool) (q : Request) : Inputs := ⟨rst, valid, ready, q⟩

/-- An idle block with these ports. -/
def idleWith (p : Inputs) : State := { State.reset with ports := p }

/-- A block sending W1's frame, at byte `i`, with these ports. -/
def sendingWith (i : BitVec 3) (p : Inputs) : State :=
  { State.reset with busy := some true, idx := some i, frame := FrameReg.ofFrame w1Frame, ports := p }

/-- The power-on state with these ports. -/
def powerOnWith (p : Inputs) : State := { State.powerOn with ports := p }

/-- `OOD_POLICY = compute`. -/
def computing (s : State) : State := { s with policy := .compute }

/-- What a vector of section 4 shows of a next state: busy, idx and the stream. -/
def after (o : Outcome State Fault Refusal) : Option (Option Bool × Option (BitVec 3) × List Byte) :=
  match o with
  | .next t => some (t.busy, t.idx, t.m.stream)
  | _ => none

/-- The frame register of a next state. -/
def frameAfter (o : Outcome State Fault Refusal) : Option FrameReg :=
  match o with
  | .next t => some t.frame
  | _ => none

/-! ### Well-formedness: an ill-formed term for each check -/

theorem test_stop_with_a_flag_is_ill_formed :
    (Instr.stop w1).wellFormed = false ∧ (Instr.stop (req 0x01#8 false false false false false true 0#8 0#8)).wellFormed = false := by
  decide

theorem test_command_without_its_flag_is_ill_formed :
    (Instr.panRight w1).wellFormed = false ∧ (Instr.panLeft w2).wellFormed = false
      ∧ (Instr.tiltUp w1).wellFormed = false ∧ (Instr.tiltDown w1).wellFormed = false
      ∧ (Instr.zoomTele w1).wellFormed = false ∧ (Instr.zoomWide w1).wellFormed = false := by decide

theorem test_both_zoom_flags_are_ill_formed :
    (Instr.zoomTele { w2 with wide := true }).wellFormed = false
      ∧ (Instr.zoomWide { w2 with wide := true }).wellFormed = false
      ∧ (Instr.panLeft { w1 with tele := true, wide := true }).wellFormed = false := by decide

/-! ### Decoding words written out by hand -/

/-- E1, E3, E4, E5, E6: the frames of the single commands (PAN_LEFT and STOP are in Obligations.WrittenOutWordsDecode). -/
theorem test_decode_single_commands :
    decode [0xFF#8, 0x01#8, 0x00#8, 0x02#8, 0x39#8, 0x00#8, 0x3C#8]
        = .ok [.panRight (req 0x01#8 true false false false false false 0x39#8 0x00#8)]
    ∧ decode [0xFF#8, 0x01#8, 0x00#8, 0x08#8, 0x00#8, 0x20#8, 0x29#8]
        = .ok [.tiltUp (req 0x01#8 false false true false false false 0x00#8 0x20#8)]
    ∧ decode [0xFF#8, 0x01#8, 0x00#8, 0x10#8, 0x00#8, 0x39#8, 0x4A#8]
        = .ok [.tiltDown (req 0x01#8 false false false true false false 0x00#8 0x39#8)]
    ∧ decode [0xFF#8, 0x01#8, 0x00#8, 0x20#8, 0x00#8, 0x00#8, 0x21#8] = .ok [.zoomTele w2]
    ∧ decode [0xFF#8, 0x01#8, 0x00#8, 0x40#8, 0x00#8, 0x00#8, 0x41#8]
        = .ok [.zoomWide (req 0x01#8 false false false false false true 0x00#8 0x00#8)] := ⟨rfl, rfl, rfl, rfl, rfl⟩

/-- W1 and E10 as packed table words; the first command of E11 in the table's order is PAN_RIGHT. -/
theorem test_decode_table_words :
    decodeTableWord 56 0xFF0100041C0021 = some (.panLeft w1)
    ∧ decodeTableWord 56 0xFF010000000001 = some (.stop (req 0x01#8 false false false false false false 0#8 0#8))
    ∧ decodeTableWord 56 0xFF01002A100843
        = some (.panRight (req 0x01#8 true false true false true false 0x10#8 0x08#8)) := ⟨rfl, rfl, rfl⟩

/-- The CTL-4 matches of R70 and the other words of their rows. -/
theorem test_decode_control_words :
    decodeTableWord 8 0x8 = some .reset ∧ decodeTableWord 8 0xF = some .reset ∧ decodeTableWord 8 0x0 = some .idle
    ∧ decodeTableWord 8 0x1 = some .idle ∧ decodeTableWord 8 0x2 = some .accept ∧ decodeTableWord 8 0x3 = some .accept
    ∧ decodeTableWord 8 0x5 = some .emit ∧ decodeTableWord 8 0x7 = some .emit ∧ decodeTableWord 8 0x4 = some .stall
    ∧ decodeTableWord 8 0x6 = some .stall := by decide

/-- R67, each shape once: sync FE, cmd1 01, cmd2 bit 7, cmd2 bit 0, both zoom bits, a wrong checksum, and a checksum FF
where the sum is 255 (E15). -/
theorem test_decode_refuses_frames_never_produced :
    decode [0xFE#8, 0x01#8, 0x00#8, 0x04#8, 0x1C#8, 0x00#8, 0x21#8] = .error .sync
    ∧ decode [0xFF#8, 0x01#8, 0x01#8, 0x04#8, 0x1C#8, 0x00#8, 0x22#8] = .error .cmd1
    ∧ decode [0xFF#8, 0x01#8, 0x00#8, 0x84#8, 0x1C#8, 0x00#8, 0xA1#8] = .error .cmd2Reserved
    ∧ decode [0xFF#8, 0x01#8, 0x00#8, 0x05#8, 0x1C#8, 0x00#8, 0x22#8] = .error .cmd2Reserved
    ∧ decode [0xFF#8, 0x01#8, 0x00#8, 0x60#8, 0x00#8, 0x00#8, 0x61#8] = .error .bothZoom
    ∧ decode [0xFF#8, 0x01#8, 0x00#8, 0x04#8, 0x1C#8, 0x00#8, 0x20#8] = .error .checksum
    ∧ decode [0xFF#8, 0xC6#8, 0x00#8, 0x02#8, 0x37#8, 0x00#8, 0xFF#8] = .error .checksum
    ∧ decode [0x18#8] = .error .ctlHighBits
    ∧ decode [0xFF#8, 0x01#8] = .error .length := ⟨rfl, rfl, rfl, rfl, rfl, rfl, rfl, rfl, rfl⟩

/-- The STEP-33 words of P3's step 4 and P4's step 1. -/
theorem test_decode_stimulus_words :
    decodeStep33 0x1FFEA3939#33 = inputs true true true (req 0xFF#8 false true false true false true 0x39#8 0x39#8)
    ∧ decodeStep33 0x080751008#33
        = inputs false true false (req 0x01#8 true false true false true true 0x10#8 0x08#8) := by decide

/-- R73: the frame of the source's first scenario. -/
theorem test_show_frame : showFrame w1Frame = "FF 01 00 04 1C 00 21".toList := by decide

/-! ### Encode -/

/-- E13 to E17: combinations, the largest in-contract sum, and the checksum at sums 255 and 256. -/
theorem test_encode_checksum_corners :
    frameEncode (req 0xFF#8 false true false true true false 0x39#8 0x39#8)
        = ⟨0xFF#8, 0xFF#8, 0x00#8, 0x34#8, 0x39#8, 0x39#8, 0xA6#8⟩
    ∧ frameEncode (req 0xFF#8 false true false true false true 0x39#8 0x39#8)
        = ⟨0xFF#8, 0xFF#8, 0x00#8, 0x54#8, 0x39#8, 0x39#8, 0xC6#8⟩
    ∧ frameEncode (req 0xC6#8 true false false false false false 0x37#8 0x00#8)
        = ⟨0xFF#8, 0xC6#8, 0x00#8, 0x02#8, 0x37#8, 0x00#8, 0x00#8⟩
    ∧ frameEncode (req 0xC6#8 true false false false false false 0x38#8 0x00#8)
        = ⟨0xFF#8, 0xC6#8, 0x00#8, 0x02#8, 0x38#8, 0x00#8, 0x01#8⟩
    ∧ frameEncode (req 0xFF#8 false false false false false false 0x00#8 0x00#8)
        = ⟨0xFF#8, 0xFF#8, 0x00#8, 0x00#8, 0x00#8, 0x00#8, 0x00#8⟩ := by decide

/-- K15, K16 and K17: requests outside the contract, computed. -/
theorem test_encode_out_of_contract :
    frameEncode (req 0x00#8 false false true true false false 0xFF#8 0xFF#8)
        = ⟨0xFF#8, 0x00#8, 0x00#8, 0x18#8, 0xFF#8, 0xFF#8, 0x18#8⟩
    ∧ frameEncode (req 0xFF#8 true true true true false true 0xFF#8 0xFF#8)
        = ⟨0xFF#8, 0xFF#8, 0x00#8, 0x5E#8, 0xFF#8, 0xFF#8, 0x5E#8⟩
    ∧ frameEncode (req 0xFF#8 true true true true true true 0xFF#8 0xFF#8)
        = ⟨0xFF#8, 0xFF#8, 0x00#8, 0x3E#8, 0xFF#8, 0xFF#8, 0x3E#8⟩ := by decide

/-- K3, K10, K12, K14 and K15: the reason sets. -/
theorem test_reasons :
    reasons (req 0x01#8 false true false false false false 0x3A#8 0x00#8) = [.speedRange]
    ∧ reasons (req 0x01#8 true false false false false false 0x00#8 0x05#8) = [.tiltSpeedWithoutDirection]
    ∧ reasons (req 0x01#8 false false false false true true 0x00#8 0x00#8) = []
    ∧ reasons (req 0x00#8 true true false false false false 0x3A#8 0x00#8)
        = [.addrZero, .speedRange, .panBothDirections]
    ∧ reasons (req 0x00#8 false false true true false false 0xFF#8 0xFF#8)
        = [.addrZero, .speedRange, .tiltBothDirections, .panSpeedWithoutDirection] := by decide

/-! ### One step: the vectors of 95_test_vectors.md section 4.1 -/

/-- S2: a reset step takes no request. -/
theorem test_reset_takes_no_request :
    after (step (idleWith (inputs true true true w2))) = some (some false, some 0#3, []) := rfl

/-- S3: a reset abandons the frame in flight. -/
theorem test_reset_abandons_frame :
    after (step (sendingWith 3#3 (inputs true false true w2))) = some (some false, some 0#3, [])
      ∧ frameAfter (step (sendingWith 3#3 (inputs true false true w2))) = some FrameReg.empty
      ∧ (sendingWith 3#3 (inputs true false true w2)).outputs true = some ⟨false, false, none, false⟩ := ⟨rfl, rfl, rfl⟩

/-- S5: an idle block stays, whatever the sink does. -/
theorem test_idle_stays :
    after (step (idleWith (inputs false false true w2))) = some (some false, some 0#3, [])
      ∧ (idleWith (inputs false false true w2)).outputs false = some ⟨true, false, none, false⟩ := ⟨rfl, rfl⟩

/-- S7: ACCEPT captures W2's frame, FF 01 00 20 00 00 21. -/
theorem test_accept_captures :
    after (step (idleWith (inputs false true true w2))) = some (some true, some 0#3, [])
      ∧ frameAfter (step (idleWith (inputs false true true w2)))
        = some (FrameReg.ofFrame ⟨0xFF#8, 0x01#8, 0x00#8, 0x20#8, 0x00#8, 0x00#8, 0x21#8⟩) := ⟨rfl, rfl⟩

/-- P5 under both policies: refused with {PanBothDirections}, or the frame FF 01 00 06 10 00 17. -/
theorem test_accept_out_of_contract :
    step (idleWith (inputs false true false k6))
        = .refused (.contractViolation [.panBothDirections] { Marks.start with refused := true })
      ∧ frameAfter (step (computing (idleWith (inputs false true false k6))))
        = some (FrameReg.ofFrame ⟨0xFF#8, 0x01#8, 0x00#8, 0x06#8, 0x10#8, 0x00#8, 0x17#8⟩) := ⟨rfl, rfl⟩

/-- S9: byte 5 is emitted and the request ignored. -/
theorem test_emit_moves_on :
    after (step (sendingWith 5#3 (inputs false true true w2))) = some (some true, some 6#3, [0x00#8])
      ∧ frameAfter (step (sendingWith 5#3 (inputs false true true w2))) = some (FrameReg.ofFrame w1Frame) := ⟨rfl, rfl⟩

/-- S10: the last byte ends the frame. -/
theorem test_emit_last :
    after (step (sendingWith 6#3 (inputs false false true w2))) = some (some false, some 0#3, [0x21#8])
      ∧ (sendingWith 6#3 (inputs false false true w2)).outputs false = some ⟨false, true, some 0x21#8, true⟩ := ⟨rfl, rfl⟩

/-- S11: a stalled block offers byte 3. -/
theorem test_stall_holds :
    after (step (sendingWith 3#3 (inputs false false false w2))) = some (some true, some 3#3, [])
      ∧ (sendingWith 3#3 (inputs false false false w2)).outputs false = some ⟨false, true, some 0x04#8, false⟩ := ⟨rfl, rfl⟩

/-- S12: a request presented to a stalled block is ignored. -/
theorem test_stall_ignores_request :
    after (step (sendingWith 6#3 (inputs false true false w2))) = some (some true, some 6#3, []) := rfl

/-- S13 (and P6), S14 and S15: uninitialised states fault, a reset from power-on does not. -/
theorem test_uninitialised :
    step (powerOnWith (inputs false false false w2))
        = .fault (.uninitialisedState { Marks.start with fault := true })
      ∧ step (sendingWith 7#3 (inputs false false true w2))
        = .fault (.uninitialisedState { Marks.start with fault := true })
      ∧ after (step (powerOnWith (inputs true false false w2))) = some (some false, some 0#3, []) := ⟨rfl, rfl, rfl⟩

/-! ### One step: the frame commands, from the vectors of section 2 -/

/-- E10. -/
theorem test_stop : frameAfter (exec (.stop w1) State.reset) = none
    ∧ frameAfter (exec (.stop { w1 with pan := 0x00#8 }) State.reset)
      = some (FrameReg.ofFrame ⟨0xFF#8, 0x01#8, 0x00#8, 0x00#8, 0x00#8, 0x00#8, 0x01#8⟩) := ⟨rfl, rfl⟩

/-- E1. -/
theorem test_pan_right :
    frameAfter (exec (.panRight (req 0x01#8 true false false false false false 0x39#8 0x00#8)) State.reset)
      = some (FrameReg.ofFrame ⟨0xFF#8, 0x01#8, 0x00#8, 0x02#8, 0x39#8, 0x00#8, 0x3C#8⟩) := rfl

/-- E2. -/
theorem test_pan_left :
    frameAfter (exec (.panLeft (req 0x01#8 false true false false false false 0x39#8 0x00#8)) State.reset)
      = some (FrameReg.ofFrame ⟨0xFF#8, 0x01#8, 0x00#8, 0x04#8, 0x39#8, 0x00#8, 0x3E#8⟩) := rfl

/-- E3. -/
theorem test_tilt_up :
    frameAfter (exec (.tiltUp (req 0x01#8 false false true false false false 0x00#8 0x20#8)) State.reset)
      = some (FrameReg.ofFrame ⟨0xFF#8, 0x01#8, 0x00#8, 0x08#8, 0x00#8, 0x20#8, 0x29#8⟩) := rfl

/-- E12, with PAN_RIGHT in the same frame. -/
theorem test_tilt_down :
    frameAfter (exec (.tiltDown (req 0x80#8 true false false true false false 0x20#8 0x30#8)) State.reset)
      = some (FrameReg.ofFrame ⟨0xFF#8, 0x80#8, 0x00#8, 0x12#8, 0x20#8, 0x30#8, 0xE2#8⟩) := rfl

/-- E9: tele wins over wide. -/
theorem test_zoom_tele :
    frameAfter (exec (.zoomTele (req 0x01#8 false false false false true true 0x00#8 0x00#8)) State.reset)
      = some (FrameReg.ofFrame ⟨0xFF#8, 0x01#8, 0x00#8, 0x20#8, 0x00#8, 0x00#8, 0x21#8⟩) := rfl

/-- E6, and E9 again: with tele set, ZOOM_WIDE's bit is dropped. -/
theorem test_zoom_wide :
    frameAfter (exec (.zoomWide (req 0x01#8 false false false false false true 0x00#8 0x00#8)) State.reset)
      = some (FrameReg.ofFrame ⟨0xFF#8, 0x01#8, 0x00#8, 0x40#8, 0x00#8, 0x00#8, 0x41#8⟩)
    ∧ frameAfter (exec (.zoomWide (req 0x01#8 false false false false true true 0x00#8 0x00#8)) State.reset)
      = some (FrameReg.ofFrame ⟨0xFF#8, 0x01#8, 0x00#8, 0x20#8, 0x00#8, 0x00#8, 0x21#8⟩) := ⟨rfl, rfl⟩

/-- A word placed after reset is run by the next step: W1's frame, and each CTL-4 match. -/
theorem test_placed_words_run :
    frameAfter (step (State.reset.withFetchWord 56 0xFF0100041C0021)) = some (FrameReg.ofFrame w1Frame)
    ∧ (State.reset.withFetchWord 4 0x8).fetch = some .reset ∧ (State.reset.withFetchWord 4 0x0).fetch = some .idle
    ∧ (State.reset.withFetchWord 4 0x2).fetch = some .accept ∧ (State.reset.withFetchWord 4 0x5).fetch = some .emit
    ∧ (State.reset.withFetchWord 4 0x4).fetch = some .stall
    ∧ after (step (State.reset.withFetchWord 4 0x5)) = some (some true, some 1#3, [0xFF#8]) :=
  ⟨rfl, rfl, rfl, rfl, rfl, rfl, rfl⟩

/-! ### Witnesses: the hypotheses of each obligation can be met -/

theorem idling_idleWith (p : Inputs) : (idleWith p).Idling := ⟨rfl, _, rfl, by decide⟩

theorem sending_sendingWith {i : BitVec 3} (h : i ≠ 7#3) (p : Inputs) : (sendingWith i p).Sending w1Frame i :=
  ⟨rfl, rfl, h, rfl⟩

/-- Each branch of the step function is taken by some state. -/
theorem witness_StepIsTheSpecStepFunction :
    (idleWith (inputs true false false w2)).ports.rst = true
    ∧ (powerOnWith (inputs false false false w2)).busy = none
    ∧ ({ State.reset with idx := none }).idx = none
    ∧ (sendingWith 7#3 (inputs false false true w2)).idx = some 7#3
    ∧ none ∈ ({ sendingWith 0#3 (inputs false false true w2) with frame := FrameReg.empty }).frame.bytes
    ∧ (idleWith (inputs false true false w2)).ports.inValid = true
    ∧ (sendingWith 0#3 (inputs false false true w2)).ports.outReady = true := by decide

theorem witness_StepRunsTheFetchedInstruction :
    State.reset.busy = some false ∧ (sendingWith 6#3 (inputs false true true w2)).busy = some true
    ∧ (powerOnWith (inputs true false false w2)).ports.rst = true ∧ State.reset.fetch = some .idle
    ∧ ∃ t, step (powerOnWith (inputs true false false w2)) = .next t := ⟨rfl, rfl, rfl, rfl, _, rfl⟩

theorem witness_EachStepPerformsTheSelectedOperation :
    (inputs true false false w2).rst = true
    ∧ (powerOnWith (inputs false false false w2)).ports.rst = false
    ∧ (powerOnWith (inputs false false false w2)).IllFormed
    ∧ ¬State.reset.IllFormed ∧ State.reset.busy = some false ∧ State.reset.ports.rst = false := by
  refine ⟨rfl, rfl, Or.inl rfl, ?_, rfl, rfl⟩
  rw [State.illFormed_iff]
  decide

theorem witness_PresentedCommandRuns :
    (idleWith (inputs false true false w1)).ports.inValid = true
    ∧ (FrameCmd.panLeft.toInstr (idleWith (inputs false true false w1)).ports.req).wellFormed = true
    ∧ (FrameCmd.stop.toInstr stopRequest).wellFormed = true
    ∧ (sendingWith 0#3 (inputs false false true w1)).busy = some true := by decide

theorem witness_PlacedWordRuns :
    decodeTableWord 56 0xFF0100041C0021 = some (.panLeft w1) ∧ decodeTableWord 4 0xF = some .reset := ⟨rfl, rfl⟩

theorem witness_ResetClearsTheBlock :
    (inputs true true true w2).rst = true
    ∧ (∃ t, exec .reset (sendingWith 2#3 (inputs true false false w2)) = .next t)
    ∧ State.reset.Idling
    ∧ (∀ p ∈ [inputs false false true w2], p.rst = false ∧ p.inValid = false)
    ∧ ∃ u, runOn [inputs false false true w2] State.reset = .next u :=
  ⟨rfl, ⟨_, rfl⟩, idling_idleWith _, by decide, ⟨_, rfl⟩⟩

theorem witness_IdleChangesNothing :
    (idleWith (inputs false false true w2)).Idling
    ∧ (∀ p ∈ [inputs false false true w2, inputs false false false k6], p.rst = false ∧ p.inValid = false) :=
  ⟨idling_idleWith _, by decide⟩

theorem witness_AcceptCapturesTheFrame :
    (idleWith (inputs false true false w1)).Idling ∧ contract w1 = true ∧ contract k6 = false
    ∧ (idleWith (inputs false true false k6)).policy = .refuse
    ∧ (computing (idleWith (inputs false true false k6))).Idling
    ∧ (computing (idleWith (inputs false true false k6))).policy = .compute :=
  ⟨idling_idleWith _, by decide, by decide, rfl, ⟨rfl, _, rfl, by decide⟩, rfl⟩

/-- At the first byte, the last but one and the last. -/
theorem witness_EmitTransfersTheOfferedByte :
    (sendingWith 0#3 (inputs false false true w2)).Sending w1Frame 0#3
    ∧ (sendingWith 5#3 (inputs false false true w2)).Sending w1Frame 5#3
    ∧ (sendingWith 6#3 (inputs false false true w2)).Sending w1Frame 6#3 :=
  ⟨sending_sendingWith (by decide) _, sending_sendingWith (by decide) _, sending_sendingWith (by decide) _⟩

theorem witness_StallHoldsTheOfferedByte :
    (sendingWith 6#3 (inputs false false false w2)).Sending w1Frame 6#3
    ∧ (∀ p ∈ [inputs false true false w2, inputs false false false k6], p.rst = false ∧ p.outReady = false) :=
  ⟨sending_sendingWith (by decide) _, by decide⟩

theorem witness_BusyBlockIgnoresRequests :
    (sendingWith 3#3 (inputs false true true w2)).busy = some true
    ∧ (inputs false true true w2).rst = (inputs false false true k6).rst
    ∧ (inputs false true true w2).outReady = (inputs false false true k6).outReady
    ∧ ∃ o, (sendingWith 3#3 (inputs false true true w2)).outputs false = some o := ⟨rfl, rfl, rfl, _, rfl⟩

theorem witness_OutputsFollowTheState :
    ¬(sendingWith 6#3 (inputs false false false w2)).IllFormed ∧ ¬State.reset.IllFormed
    ∧ (sendingWith 6#3 (inputs false false false w2)).busy = some true
    ∧ (sendingWith 6#3 (inputs false false false w2)).idx = some 6#3 := by
  rw [State.illFormed_iff, State.illFormed_iff]
  decide

theorem witness_OfferIsStableUnderBackPressure :
    (sendingWith 1#3 (inputs false true false w2)).selected (inputs false true false w2) = some .stall
    ∧ ∃ t, step (sendingWith 1#3 (inputs false true false w2)) = .next t := ⟨rfl, _, rfl⟩

/-- P1, with no byte taken and with six. -/
theorem witness_AcceptedFrameIsEmittedByteByByte :
    State.reset.Idling ∧ (inputs false true false w1).rst = false ∧ (inputs false true false w1).inValid = true
    ∧ State.reset.Takes w1
    ∧ (∀ p ∈ List.replicate 6 (inputs false false true w2), p.rst = false)
    ∧ (List.replicate 6 (inputs false false true w2)).countP (fun p => p.outReady) = 6
    ∧ ([] : List Inputs).countP (fun p => p.outReady) = 0
    ∧ (inputs false false true w2).outReady = true :=
  ⟨idling_idleWith _, rfl, rfl, Or.inl (by decide), by decide, by decide, by decide, rfl⟩

theorem witness_ContractIsTheSixConditions :
    stopRequest.addr ≠ 0x00#8 ∧ stopRequest.noFlags = true ∧ stopRequest.pan = 0x00#8 ∧ stopRequest.tilt = 0x00#8 := by
  decide

theorem witness_RefusedExactlyOutsideTheContract :
    (∃ r, step (idleWith (inputs false true false k6)) = .refused r) ∧ ∃ t, step State.reset = .next t :=
  ⟨⟨_, rfl⟩, _, rfl⟩

theorem witness_ComputeEncodesEveryRequest :
    (computing (idleWith (inputs false true false k6))).Idling
    ∧ (computing (idleWith (inputs false true false k6))).policy = .compute := ⟨⟨rfl, _, rfl, by decide⟩, rfl⟩

theorem witness_PriorityOfEvents :
    (idleWith (inputs true true true w2)).ports.rst = true
    ∧ (powerOnWith (inputs false false false w2)).IllFormed ∧ ¬State.reset.IllFormed
    ∧ (∃ t, step (idleWith (inputs false true true w2)) = .next t)
    ∧ (idleWith (inputs false true true w2)).selected (inputs false true true w2) = some .accept
    ∧ (∃ o, (idleWith (inputs false true true w2)).outputs false = some o)
    ∧ (∃ t, step (sendingWith 6#3 (inputs false true true w2)) = .next t ∧ t.m.stream ≠ [])
    ∧ ∃ rs m, step (idleWith (inputs false true false k6)) = .refused (.contractViolation rs m) := by
  refine ⟨rfl, Or.inl rfl, ?_, ⟨_, rfl⟩, rfl, ⟨_, rfl⟩, ⟨_, rfl, by decide⟩, _, _, rfl⟩
  rw [State.illFormed_iff]
  decide

theorem witness_NoFaultAfterReset :
    (∃ r, step (powerOnWith (inputs false false false w2)) = .fault r) ∧ (∃ t, step State.reset = .next t)
    ∧ (inputs true true false w2).rst = true := ⟨⟨_, rfl⟩, ⟨_, rfl⟩, rfl⟩

theorem witness_MarksAreNeverCleared :
    (∃ t, step (sendingWith 3#3 (inputs true true true w2)) = .next t)
    ∧ (∃ m, step (powerOnWith (inputs false false false w2)) = .fault (.uninitialisedState m))
    ∧ ∃ rs m, step (idleWith (inputs false true false k6)) = .refused (.contractViolation rs m) :=
  ⟨⟨_, rfl⟩, ⟨_, rfl⟩, _, _, rfl⟩

theorem witness_PowerOnNeedsReset :
    State.powerOn.busy = none ∧ State.powerOn.idx = none ∧ (∀ b ∈ State.powerOn.frame.bytes, b = none)
    ∧ (∃ t, step (powerOnWith (inputs true false false w2)) = .next t)
    ∧ ∃ o, (sendingWith 6#3 (inputs false false false w2)).outputs false = some o ∧ o.outValid = true :=
  ⟨rfl, rfl, by simp [State.powerOn, FrameReg.bytes, FrameReg.empty], ⟨_, rfl⟩, _, rfl, rfl⟩

/-- A reset step, and after it a run that accepts W2's request and emits its first byte. -/
theorem witness_AfterResetTheBlockIsReady :
    (∃ t, step (powerOnWith (inputs true false false w2)) = .next t)
    ∧ (∀ p ∈ [inputs false true false w2, inputs false false true w2], p.rst = false)
    ∧ (∃ u, runOn [inputs false true false w2, inputs false false true w2] State.reset = .next u)
    ∧ acceptedOn [inputs false true false w2, inputs false false true w2] State.reset = [w2] :=
  ⟨⟨_, rfl⟩, by decide, ⟨_, rfl⟩, rfl⟩

theorem witness_RequestTakesEffectOnlyWhenTaken :
    (inputs false false true w2).inValid = false
    ∧ (∀ o, (sendingWith 3#3 (inputs false true true w2)).outputs false = some o → o.inReady = false)
    ∧ (∃ t o, (idleWith (inputs false true false w2)).outputs false = some o ∧ o.inReady = true
      ∧ step (idleWith (inputs false true false w2)) = .next t) := by
  refine ⟨rfl, ?_, _, _, rfl, rfl, rfl⟩
  intro o h
  cases h
  rfl

theorem witness_NoPreemption :
    (sendingWith 6#3 (inputs false true true w2)).Sending w1Frame 6#3
    ∧ ∃ t o, step (sendingWith 6#3 (inputs false true true w2)) = .next t ∧ t.outputs false = some o
      ∧ o.inReady = true :=
  ⟨sending_sendingWith (by decide) _, _, _, rfl, rfl, rfl⟩

theorem witness_ResetAbandonsTheFrameInFlight :
    (sendingWith 6#3 (inputs true false true w2)).Sending w1Frame 6#3
    ∧ (sendingWith 0#3 (inputs true false true w2)).Sending w1Frame 0#3
    ∧ ∃ t, step (sendingWith 6#3 (inputs true false true w2)) = .next t
      ∧ (∃ u, runOn [inputs false false true w2] t = .next u)
      ∧ ∃ u, runOn [inputs false true true w2, inputs false false true w2] t = .next u :=
  ⟨sending_sendingWith (by decide) _, sending_sendingWith (by decide) _, _, rfl, ⟨_, rfl⟩, _, rfl⟩

theorem witness_TransfersExtendTheStream :
    (∃ t, step (sendingWith 0#3 (inputs false false true w2)) = .next t) ∧ ∃ t, step State.reset = .next t :=
  ⟨⟨_, rfl⟩, _, rfl⟩

theorem witness_StreamIsTheAcceptedFrames :
    (∀ p ∈ [inputs false true false w2, inputs false false true w2], p.rst = false)
    ∧ (∃ t, runOn [inputs false true false w2, inputs false false true w2] State.reset = .next t)
    ∧ ∃ t, step (sendingWith 3#3 (inputs true false false w2)) = .next t := ⟨by decide, ⟨_, rfl⟩, _, rfl⟩

theorem witness_IndexCountsTheFrameBytes :
    (sendingWith 6#3 (inputs false false true w2)).Sending w1Frame 6#3
    ∧ (∃ t, step (sendingWith 5#3 (inputs false false true w2)) = .next t)
    ∧ (sendingWith 5#3 (inputs false false true w2)).selected (inputs false false true w2) = some .emit
    ∧ (∃ t, step (sendingWith 5#3 (inputs false false false w2)) = .next t)
    ∧ (sendingWith 5#3 (inputs false false false w2)).selected (inputs false false false w2) = some .stall
    ∧ (∃ t, step State.reset = .next t) ∧ State.reset.selected State.reset.ports = some .idle
    ∧ (∃ t, step (sendingWith 5#3 (inputs true false false w2)) = .next t)
    ∧ (sendingWith 5#3 (inputs true false false w2)).selected (inputs true false false w2) = some .reset
    ∧ (∃ t, step (idleWith (inputs false true false w2)) = .next t)
    ∧ (idleWith (inputs false true false w2)).selected (inputs false true false w2) = some .accept
    ∧ (sendingWith 7#3 (inputs false false true w2)).idx = some 7#3
    ∧ ∃ t, runOn [inputs true false false w2, inputs false true false w2] State.powerOn = .next t :=
  ⟨sending_sendingWith (by decide) _, ⟨_, rfl⟩, rfl, ⟨_, rfl⟩, rfl, ⟨_, rfl⟩, rfl, ⟨_, rfl⟩, rfl, ⟨_, rfl⟩, rfl, rfl,
    _, rfl⟩

/-- An idle state and a busy one with the invariant. -/
theorem witness_InvariantIsKeptByEveryStep :
    State.reset.Inv ∧ (sendingWith 6#3 (inputs false false true w2)).Inv
    ∧ (∃ t, step (sendingWith 6#3 (inputs false false true w2)) = .next t)
    ∧ State.powerOn.m.clean = true ∧ ∃ t, step (powerOnWith (inputs true false false w2)) = .next t :=
  ⟨⟨Or.inl ⟨rfl, rfl⟩, Or.inl ⟨rfl, rfl⟩, rfl⟩,
    ⟨Or.inr ⟨rfl, _, rfl, by decide⟩, Or.inr ⟨w1, by decide, Or.inl (by decide)⟩, rfl⟩, ⟨_, rfl⟩, rfl, _, rfl⟩

theorem witness_EveryInstructionKeepsTheEnvironment :
    (∃ t, exec .emit (sendingWith 6#3 (inputs false false true w2)) = .next t)
    ∧ ∃ t, exec (.panLeft w1) State.reset = .next t := ⟨⟨_, rfl⟩, _, rfl⟩

theorem witness_WhatEachInstructionLeavesUnchanged :
    (∃ t, exec .reset State.powerOn = .next t) ∧ (∃ t, exec .idle State.reset = .next t)
    ∧ (∃ t, exec .stall (sendingWith 6#3 Inputs.zero) = .next t)
    ∧ (∃ t, exec .accept (idleWith (inputs false true false w1)) = .next t)
    ∧ (∃ t, exec .emit (sendingWith 0#3 Inputs.zero) = .next t)
    ∧ (∃ t, exec (FrameCmd.zoomWide.toInstr w1) State.reset = .next t)
    ∧ ∃ t, exec (FrameCmd.zoomWide.toInstr w1) (sendingWith 0#3 (inputs false false true w1)) = .next t :=
  ⟨⟨_, rfl⟩, ⟨_, rfl⟩, ⟨_, rfl⟩, ⟨_, rfl⟩, ⟨_, rfl⟩, ⟨_, rfl⟩, _, rfl⟩

/-- One request for all seven commands: at the system's address, no speed. -/
theorem witness_FrameCommandsAreCaptured :
    State.reset.Idling ∧ State.reset.ports.rst = false
    ∧ State.reset.Takes { stopRequest with right := true } ∧ State.reset.Takes { stopRequest with left := true }
    ∧ State.reset.Takes { stopRequest with up := true } ∧ State.reset.Takes { stopRequest with down := true }
    ∧ State.reset.Takes { stopRequest with tele := true } ∧ State.reset.Takes { stopRequest with wide := true }
    ∧ State.reset.Takes
      ⟨stopRequest.addr, false, false, false, false, false, false, stopRequest.pan, stopRequest.tilt⟩ :=
  ⟨idling_idleWith _, rfl, Or.inl (by decide), Or.inl (by decide), Or.inl (by decide), Or.inl (by decide),
    Or.inl (by decide), Or.inl (by decide), Or.inl (by decide)⟩

/-- K6 and an address: PAN_RIGHT and PAN_LEFT. -/
theorem witness_PanCommandsSetTheirBits :
    k6.right = true ∧ k6.left = true ∧ k6.up = false ∧ k6.down = false ∧ k6.tele = false ∧ k6.wide = false
    ∧ (0x01#8 : Byte) ≠ 0x00#8 := by decide

/-- K7: TILT_UP and TILT_DOWN. -/
theorem witness_TiltCommandsSetTheirBits :
    let q := req 0x01#8 false false true true false false 0x00#8 0x10#8
    q.up = true ∧ q.down = true ∧ q.right = false ∧ q.left = false ∧ q.tele = false ∧ q.wide = false := by decide

/-- W2: ZOOM_TELE and ZOOM_WIDE. -/
theorem witness_ZoomCommandsSetTheirBits : w2.tele = true := rfl

/-- E10, K8 and K9. -/
theorem witness_StopHasNoCommandBit :
    stopRequest.noFlags = true ∧ (req 0x01#8 false false false false false false 0x05#8 0x00#8).noFlags = true
    ∧ (0x05#8 : Byte) ≠ 0x00#8 ∧ State.reset.Idling ∧ State.reset.Takes stopRequest
    ∧ (inputs false true false stopRequest).inValid = true ∧ (inputs false false true w2).outReady = true :=
  ⟨rfl, rfl, by decide, idling_idleWith _, Or.inl (by decide), rfl, rfl⟩

/-- K2, E14, K8, K9, K3 and K4. -/
theorem witness_FixedAndCopiedBytes :
    (req 0x00#8 false true false false false false 0x1C#8 0x00#8).addr = 0x00#8
    ∧ contract (req 0xFF#8 false true false true false true 0x39#8 0x39#8) = true
    ∧ (req 0x01#8 false false false false false false 0x05#8 0x00#8).pan ≠ 0x00#8
    ∧ (req 0x01#8 false false false false false false 0x00#8 0x05#8).tilt ≠ 0x00#8
    ∧ 0x3A ≤ (0x3A#8 : Byte).toNat := by decide

theorem witness_EncodeIsTheSevenBytes :
    (idleWith (inputs false true false w1)).Idling ∧ contract (idleWith (inputs false true false w1)).ports.req = true :=
  ⟨idling_idleWith _, by decide⟩

/-- E11's contributions, in another order. -/
theorem witness_CommandsComposeByOr :
    let q := req 0x01#8 true false true false true false 0x10#8 0x08#8
    [0x20#8, 0x00#8, 0x08#8, 0x02#8, 0x00#8].Perm
      [if q.right = true then 0x02#8 else 0x00#8, if q.left = true then 0x04#8 else 0x00#8,
        if q.up = true then 0x08#8 else 0x00#8, if q.down = true then 0x10#8 else 0x00#8,
        if q.tele = true then 0x20#8 else if q.wide = true then 0x40#8 else 0x00#8] := by decide

/-- E15 and E16 in the contract, and a sum of 510: address FF, pan FF. -/
theorem witness_ChecksumIsTheExactSumMod255 :
    (frameEncode (req 0xC6#8 true false false false false false 0x37#8 0x00#8)).bodySum = 255
    ∧ (frameEncode (req 0xC6#8 true false false false false false 0x38#8 0x00#8)).bodySum = 256
    ∧ (frameEncode (req 0xFF#8 false false false false false false 0xFF#8 0x00#8)).bodySum = 510
    ∧ contract w1 = true := by decide

theorem witness_OutputRanges : contract (req 0xFF#8 false true false true false true 0x39#8 0x39#8) = true := by decide

/-- W1 and K12. -/
theorem witness_FrameDecodeRecoversTheRequest :
    ¬(w1.tele = true ∧ w1.wide = true) ∧ (req 0x01#8 false false false false true true 0x00#8 0x00#8).tele = true
    ∧ (req 0x01#8 false false false false true true 0x00#8 0x00#8).wide = true := by decide

theorem witness_DecodeOfEncode :
    (Instr.panLeft w1).wellFormed = true ∧ (Instr.stop stopRequest).wellFormed = true
    ∧ (Instr.zoomTele w2).wellFormed = true ∧ Instr.reset.wellFormed = true := by decide

/-- One frame for each shape of R67, and a length that is neither 1 nor 7. -/
theorem witness_DecoderTakesExactlyTheProducedFrames :
    ({ w1Frame with sync := 0xFE#8 }).sync ≠ 0xFF#8 ∧ ({ w1Frame with cmd1 := 0x01#8 }).cmd1 ≠ 0x00#8
    ∧ ({ w1Frame with cmd2 := 0x80#8 }).cmd2.getLsbD 7 = true ∧ ({ w1Frame with cmd2 := 0x01#8 }).cmd2.getLsbD 0 = true
    ∧ ({ w1Frame with cmd2 := 0x60#8 }).cmd2.getLsbD 5 = true ∧ ({ w1Frame with cmd2 := 0x60#8 }).cmd2.getLsbD 6 = true
    ∧ ({ w1Frame with checksum := 0x22#8 }).checksum.toNat ≠ w1Frame.bodySum % 255
    ∧ ({ w1Frame with checksum := 0xFF#8 }).checksum = 0xFF#8
    ∧ ([] : List Byte).length ≠ 1 ∧ ([] : List Byte).length ≠ 7 := by decide

theorem witness_FrameLengthAndWhereFFStands : contract w1 = true := by decide

/-- A frame of each of the six shapes of R67 (cmd2 by bit 7 and by bit 0). -/
theorem witness_ShapesNeverProduced :
    ({ w1Frame with sync := 0x00#8 }).sync ≠ 0xFF#8 ∧ ({ w1Frame with cmd1 := 0xFF#8 }).cmd1 ≠ 0x00#8
    ∧ (⟨0xFF#8, 0x01#8, 0x00#8, 0x80#8, 0x00#8, 0x00#8, 0x81#8⟩ : Frame).cmd2.getLsbD 7 = true
    ∧ (⟨0xFF#8, 0x01#8, 0x00#8, 0x01#8, 0x00#8, 0x00#8, 0x02#8⟩ : Frame).cmd2.getLsbD 0 = true
    ∧ (⟨0xFF#8, 0x01#8, 0x00#8, 0x60#8, 0x00#8, 0x00#8, 0x61#8⟩ : Frame).cmd2.getLsbD 5 = true
    ∧ (⟨0xFF#8, 0x01#8, 0x00#8, 0x60#8, 0x00#8, 0x00#8, 0x61#8⟩ : Frame).cmd2.getLsbD 6 = true
    ∧ ({ w1Frame with checksum := 0x20#8 }).checksum.toNat ≠ w1Frame.bodySum % 255
    ∧ ({ w1Frame with checksum := 0xFF#8 }).checksum = 0xFF#8 := by decide

/-- Two words without a request that differ in bits 29:0, and a line without a request. -/
theorem witness_StimulusWordRoundTrip :
    (0x040000000#33 : Step33).getLsbD 31 = false
    ∧ (0x040000000#33 : Step33).extractLsb' 30 3 = (0x07FFFFFFF#33 : Step33).extractLsb' 30 3
    ∧ assembleLine "step rdy".toList = some [{ Inputs.zero with outReady := true }]
    ∧ ({ Inputs.zero with outReady := true }).inValid = false
    ∧ ¬(w2.tele = true ∧ w2.wide = true) := by decide

end Sys2Proof.Tests
end

section
/-! PROOFS. What a step with a given outcome did, said once for each outcome and each operation, and runs. -/

namespace Sys2Proof.Machine

/-! ### The step by its outcome -/

/-- A step that has a next state performed one operation, and that state is the operation's result. -/
theorem step_eq_next {s t : State} (h : step s = .next t) :
    (s.ports.rst = true ∧ t = s.resetBlock.advance)
    ∨ (s.ports.rst = false ∧ s.Idling ∧ s.ports.inValid = false ∧ t = s.advance)
    ∨ (s.ports.rst = false ∧ s.Idling ∧ s.ports.inValid = true
        ∧ ∃ u, acceptRequest s.ports.req s = .next u ∧ t = u.advance)
    ∨ (s.ports.rst = false ∧ s.ports.outReady = true ∧ ∃ f i b, s.Sending f i ∧ f.bytes[i.toNat]? = some b
        ∧ t = ((s.emitByte b).nextIndex i).advance)
    ∨ (s.ports.rst = false ∧ s.ports.outReady = false ∧ (∃ f i, s.Sending f i) ∧ t = s.advance) := by
  rw [step_eq_performWith] at h
  obtain ⟨u, hu, rfl⟩ := finishStep_eq_next h
  rcases performWith_cases s.ports s with
    ⟨hr, hp⟩ | ⟨-, -, hp⟩ | ⟨hr, hI, hv, hp⟩ | ⟨hr, hI, hv, hp⟩ | ⟨hr, ⟨f, i, hS⟩, ho, hp⟩ | ⟨hr, hS, ho, hp⟩
  · cases hp.symm.trans hu
    exact .inl ⟨hr, rfl⟩
  · cases hp.symm.trans hu
  · cases hp.symm.trans hu
    exact .inr (.inl ⟨hr, hI, hv, rfl⟩)
  · exact .inr (.inr (.inl ⟨hr, hI, hv, u, hp.symm.trans hu, rfl⟩))
  · obtain ⟨b, hb⟩ := hS.exists_byte
    cases (hp.trans (emitOffered_of_sending hS hb)).symm.trans hu
    exact .inr (.inr (.inr (.inl ⟨hr, ho, f, i, b, hS, hb, rfl⟩)))
  · cases hp.symm.trans hu
    exact .inr (.inr (.inr (.inr ⟨hr, ho, hS, rfl⟩)))

/-- The model fault of R136: a step without reset in a state that is not well-formed. -/
theorem step_of_not_wellFormed {s : State} (hr : s.ports.rst = false) (hw : s.wellFormed = false) :
    step s = .fault (.uninitialisedState { s.m with fault := true }) := by
  rcases performWith_cases s.ports s with
    ⟨hr', -⟩ | ⟨-, -, hp⟩ | ⟨-, hI, -⟩ | ⟨-, hI, -⟩ | ⟨-, ⟨f, i, hS⟩, -⟩ | ⟨-, ⟨f, i, hS⟩, -⟩
  · simp [hr] at hr'
  · rw [step_eq_performWith, hp]; rfl
  · simp [hI.wellFormed] at hw
  · simp [hI.wellFormed] at hw
  · simp [hS.wellFormed] at hw
  · simp [hS.wellFormed] at hw

/-- A step faults exactly without reset in a state that is not well-formed, and leaves the mark `m.fault` (R136). -/
theorem step_eq_fault_iff {s : State} {r : Fault} :
    step s = .fault r ↔ s.ports.rst = false ∧ s.wellFormed = false
      ∧ r = .uninitialisedState { s.m with fault := true } := by
  constructor
  · intro h
    rcases step_cases s with ⟨-, e⟩ | ⟨hr, hw, e⟩ | ⟨-, -, -, e⟩ | ⟨-, -, -, -, e⟩ | ⟨-, -, -, -, -, e⟩
      | ⟨-, -, -, -, -, e⟩ | ⟨-, -, _, _, _, -, -, e⟩ | ⟨-, -, -, e⟩ <;> cases e.symm.trans h
    exact ⟨hr, hw, rfl⟩
  · rintro ⟨hr, hw, rfl⟩
    exact step_of_not_wellFormed hr hw

/-- A refused step is an ACCEPT outside the contract under `refuse`, and leaves the mark `m.refused` (R132). -/
theorem step_eq_refused {s : State} {r : Refusal} (h : step s = .refused r) :
    s.ports.rst = false ∧ s.Idling ∧ s.ports.inValid = true ∧ contract s.ports.req = false ∧ s.policy = .refuse
      ∧ r = .contractViolation (reasons s.ports.req) { s.m with refused := true } := by
  rcases step_cases s with ⟨-, e⟩ | ⟨-, -, e⟩ | ⟨-, -, -, e⟩ | ⟨-, -, -, -, e⟩ | ⟨-, -, -, -, -, e⟩
    | ⟨hr, hI, hv, hc, hp, e⟩ | ⟨-, -, _, _, _, -, -, e⟩ | ⟨-, -, -, e⟩ <;> cases e.symm.trans h
  exact ⟨hr, hI, hv, hc, hp, rfl⟩

/-! ### The step by its operation -/

/-- A step that selects an operation and has a next state has the one in which that operation results. -/
theorem exec_of_step_eq_next {s t : State} {o : CtlOp} (ho : s.selected s.ports = some o) (h : step s = .next t) :
    ∃ u, exec o.toInstr s = .next u ∧ t = u.advance := by
  rw [step_eq_performWith, ← exec_toInstr s ho] at h
  exact finishStep_eq_next h

/-- What acceptance changes: the frame is captured (R113). -/
theorem acceptRequest_captured {q : Request} {s t : State} (h : acceptRequest q s = .next t) :
    Captured (frameEncode q) s t := by
  obtain ⟨-, rfl⟩ | ⟨-, -, rfl⟩ := acceptRequest_eq_next h <;> simp [Captured]

theorem exec_reset_eq_next {s t : State} (h : exec .reset s = .next t) : t = s.resetBlock := by
  cases h; rfl

theorem exec_idle_eq_next {s t : State} (h : exec .idle s = .next t) : t = s := by
  cases (guarded_eq_next h).2; rfl

theorem exec_stall_eq_next {s t : State} (h : exec .stall s = .next t) : t = s := by
  cases (guarded_eq_next h).2; rfl

theorem exec_accept_eq_next {s t : State} (h : exec .accept s = .next t) :
    Captured (frameEncode s.ports.req) s t :=
  acceptRequest_captured (guarded_eq_next h).2

theorem exec_emit_eq_next {s t : State} (h : exec .emit s = .next t) :
    ∃ i b, s.idx = some i ∧ s.frame.byteAt i = some b ∧ t = (s.emitByte b).nextIndex i :=
  emitOffered_eq_next (guarded_eq_next h).2

/-! ### Runs -/

/-- A run of at least one step passes through the next state of its first. -/
theorem runOn_cons_eq_next {p : Inputs} {ps : List Inputs} {s u : State} (h : runOn (p :: ps) s = .next u) :
    ∃ t, step { s with ports := p } = .next t ∧ runOn ps t = .next u := by
  rw [runOn] at h
  split at h
  next t ht => exact ⟨t, ht, h⟩
  next => cases h
  next => cases h

/-- What every step keeps, under any inputs, a run keeps. -/
theorem runOn_invariant {P : State → Prop}
    (hstep : ∀ (s t : State) (p : Inputs), P s → step { s with ports := p } = .next t → P t) :
    ∀ {ps : List Inputs} {s t : State}, P s → runOn ps s = .next t → P t
  | [], _, _, hs, h => by cases h; exact hs
  | p :: _, s, _, hs, h => by
    obtain ⟨u, hu, hrun⟩ := runOn_cons_eq_next h
    exact runOn_invariant hstep (hstep s u p hs hu) hrun

/-! ### The marks (R23) -/

@[simp] theorem State.outputs_true (s : State) : s.outputs true = some Outputs.inReset := rfl

/-- No step that has a next state, a reset among them, changes `m.refused` or `m.fault` (R23). -/
theorem step_keeps_refused_and_fault {s t : State} (h : step s = .next t) :
    t.m.refused = s.m.refused ∧ t.m.fault = s.m.fault := by
  obtain ⟨-, rfl⟩ | ⟨-, -, -, rfl⟩ | ⟨-, -, -, u, hu, rfl⟩ | ⟨-, -, f, i, b, -, -, rfl⟩ | ⟨-, -, -, rfl⟩ :=
    step_eq_next h
  · simp
  · simp
  · obtain ⟨-, -, -, -, hrefused, hfault, -⟩ := acceptRequest_captured hu
    exact ⟨hrefused, hfault⟩
  · simp
  · simp

/-- A step appends to the stream the byte it offers, if the sink takes it, and nothing else (R23, R44). -/
theorem step_stream {s t : State} (h : step s = .next t) :
    ∃ o, s.outputs s.ports.rst = some o ∧ t.m.stream = s.m.stream
      ++ if o.outValid = true ∧ s.ports.outReady = true then o.outByte.toList else [] := by
  obtain ⟨hr, rfl⟩ | ⟨hr, hI, -, rfl⟩ | ⟨hr, hI, -, u, hu, rfl⟩ | ⟨hr, ho, f, i, b, hS, hb, rfl⟩
    | ⟨hr, ho, ⟨f, i, hS⟩, rfl⟩ := step_eq_next h <;> rw [hr]
  · exact ⟨_, s.outputs_true, by simp [Outputs.inReset]⟩
  · exact ⟨_, hI.outputs_eq, by simp⟩
  · obtain ⟨-, -, -, hstream, -⟩ := acceptRequest_captured hu
    exact ⟨_, hI.outputs_eq, by simp [hstream]⟩
  · exact ⟨_, hS.outputs_eq hb, by simp [ho]⟩
  · obtain ⟨b, hb⟩ := hS.exists_byte
    exact ⟨_, hS.outputs_eq hb, by simp [ho]⟩

/-- Settles O21: the next states by the case lemma of a step with one, the two stops by theirs. -/
theorem marksAreNeverCleared : Obligations.MarksAreNeverCleared := by
  refine ⟨⟨rfl, rfl, rfl⟩, fun s t h => ?_, fun s m h => ?_, fun s rs m h => ?_⟩
  · obtain ⟨hrefused, hfault⟩ := step_keeps_refused_and_fault h
    exact ⟨hrefused, hfault, step_stream h⟩
  · obtain ⟨-, -, hm⟩ := step_eq_fault_iff.1 h
    cases hm
    exact ⟨rfl, rfl⟩
  · obtain ⟨-, -, -, -, -, hm⟩ := step_eq_refused h
    cases hm
    exact ⟨rfl, rfl⟩

/-! ### The index (R26) -/

/-- The index after an EMIT: on by one, and back to 0 after byte 6. -/
theorem step_emit_idx {s t : State} {i : BitVec 3} (h : step s = .next t)
    (hsel : s.selected s.ports = some .emit) (hi : s.idx = some i) :
    t.idx = if i = 6#3 then some 0#3 else some (i + 1#3) := by
  obtain ⟨u, hu, rfl⟩ := exec_of_step_eq_next hsel h
  obtain ⟨j, b, hj, -, rfl⟩ := exec_emit_eq_next hu
  cases hi.symm.trans hj
  simp

/-- IDLE and STALL do not write the index. -/
theorem step_idle_or_stall_idx {s t : State} (h : step s = .next t)
    (hsel : s.selected s.ports = some .idle ∨ s.selected s.ports = some .stall) : t.idx = s.idx := by
  rcases hsel with hsel | hsel <;> obtain ⟨u, hu, rfl⟩ := exec_of_step_eq_next hsel h
  · cases exec_idle_eq_next hu; rfl
  · cases exec_stall_eq_next hu; rfl

/-- RESET and ACCEPT write 0 to the index. -/
theorem step_reset_or_accept_idx {s t : State} (h : step s = .next t)
    (hsel : s.selected s.ports = some .reset ∨ s.selected s.ports = some .accept) : t.idx = some 0#3 := by
  rcases hsel with hsel | hsel <;> obtain ⟨u, hu, rfl⟩ := exec_of_step_eq_next hsel h
  · cases exec_reset_eq_next hu; rfl
  · obtain ⟨-, hidx, -⟩ := exec_accept_eq_next hu
    exact hidx

/-- No index from 0 to 6 counts through 7. -/
theorem nextIndex_idx_ne_seven {i : BitVec 3} (h : i ≠ 7#3) :
    (if i = 6#3 then some 0#3 else some (i + 1#3)) ≠ some 7#3 := by
  revert i; decide

/-- No step leaves 7 in the index, whatever state it starts from: a state with 7 there has a next state only by a
reset. -/
theorem step_idx_ne_seven {s t : State} (h : step s = .next t) : t.idx ≠ some 7#3 := by
  obtain ⟨-, rfl⟩ | ⟨-, ⟨-, i, hi, h7⟩, -, rfl⟩ | ⟨-, -, -, u, hu, rfl⟩ | ⟨-, -, f, i, b, ⟨-, -, h7, -⟩, -, rfl⟩
    | ⟨-, -, ⟨f, i, -, hi, h7, -⟩, rfl⟩ := step_eq_next h
  · simp
  · simpa [hi] using h7
  · obtain ⟨-, hidx, -⟩ := acceptRequest_captured hu
    simp [hidx]
  · simpa using nextIndex_idx_ne_seven h7
  · simpa [hi] using h7

/-- A state with 7 in the index is not well-formed (R110). -/
theorem State.not_wellFormed_of_idx_seven {s : State} (h : s.idx = some 7#3) : s.wellFormed = false :=
  s.illFormed_iff.1 (.inr (.inr (.inl h)))

/-- Settles O29: what each operation writes to the index, and that no step leaves 7 there. -/
theorem indexCountsTheFrameBytes : Obligations.IndexCountsTheFrameBytes := by
  refine ⟨fun s f i hS => ?_, fun s t i => step_emit_idx, fun s t => step_idle_or_stall_idx,
    fun s t => step_reset_or_accept_idx, fun s t p ps _ h => ?_, fun s hi hr => ?_⟩
  · obtain ⟨b, hb⟩ := hS.exists_byte
    exact ⟨_, b, hS.outputs_eq hb, rfl, hb⟩
  · obtain ⟨u, hu, hrun⟩ := runOn_cons_eq_next h
    exact runOn_invariant (fun _ _ _ _ hstep => step_idx_ne_seven hstep) (step_idx_ne_seven hu) hrun
  · exact ⟨_, step_of_not_wellFormed hr (State.not_wellFormed_of_idx_seven hi)⟩

end Sys2Proof.Machine
end

section
/-! PROOFS. The observation stream: what a transfer appends to it, and that what is emitted and what is still to be
emitted are the frames of the accepted requests (R44, R47). -/

namespace Sys2Proof.Machine

/-! ### The transfer (R44) -/

/-- A state that is not well-formed has no outputs but in reset (R117). -/
theorem State.outputs_of_not_wellFormed {s : State} (h : s.wellFormed = false) : s.outputs false = none := by
  simp [State.outputs, h]

/-- Where a byte is offered, there is one. -/
theorem State.exists_outByte_of_outValid {s : State} {rst : Bool} {o : Outputs} (h : s.outputs rst = some o)
    (hv : o.outValid = true) : ∃ b, o.outByte = some b := by
  cases rst with
  | true =>
    cases s.outputs_true.symm.trans h
    cases hv
  | false =>
    cases hw : s.wellFormed with
    | false => cases (State.outputs_of_not_wellFormed hw).symm.trans h
    | true =>
      obtain hI | ⟨f, i, hS⟩ := s.wellFormed_iff.1 hw
      · cases hI.outputs_eq.symm.trans h
        cases hv
      · obtain ⟨b, hb⟩ := hS.exists_byte
        cases (hS.outputs_eq hb).symm.trans h
        exact ⟨b, rfl⟩

/-- Settles O27: a step appends the byte it offers, if the sink takes it, and an offered byte is never absent. -/
theorem transfersExtendTheStream : Obligations.TransfersExtendTheStream := by
  intro s t h
  obtain ⟨o, ho, hstream⟩ := step_stream h
  refine ⟨o, ho, fun hx => ?_, fun hx => ?_⟩
  · obtain ⟨b, hb⟩ := State.exists_outByte_of_outValid ho hx.1
    exact ⟨b, hb, by rw [hstream, if_pos hx, hb]; rfl⟩
  · rw [hstream, if_neg hx, List.append_nil]

/-! ### The bytes still to be emitted -/

@[simp] theorem State.advance_remaining (s : State) : s.advance.remaining = s.remaining := rfl

/-- An idle block has nothing left to emit. -/
theorem State.remaining_of_idle {s : State} (h : s.busy = some false) : s.remaining = [] := by
  simp [State.remaining, h]

/-- A block sending a frame has the frame's bytes from the index on left to emit. -/
theorem State.remaining_of_busy {s : State} {f : Frame} {i : BitVec 3} (hb : s.busy = some true)
    (hi : s.idx = some i) (hf : s.frame = FrameReg.ofFrame f) : s.remaining = f.bytes.drop i.toNat := by
  have hbytes : (FrameReg.ofFrame f).bytes = f.bytes.map some := rfl
  simp [State.remaining, hb, hi, hf, hbytes, ← List.map_drop, List.filterMap_map]

theorem State.Sending.remaining_eq {s : State} {f : Frame} {i : BitVec 3} (h : s.Sending f i) :
    s.remaining = f.bytes.drop i.toNat :=
  State.remaining_of_busy h.1 h.2.1 h.2.2.2

/-- A captured frame is whole before its first byte is emitted. -/
theorem Captured.remaining_eq {f : Frame} {s t : State} (h : Captured f s t) : t.remaining = f.bytes := by
  obtain ⟨hb, hi, hf, -⟩ := h
  exact State.remaining_of_busy hb hi hf

theorem State.length_remaining_le (s : State) : s.remaining.length ≤ 7 := by
  unfold State.remaining
  split
  next i _ _ =>
    calc ((s.frame.bytes.drop i.toNat).filterMap id).length
      _ ≤ (s.frame.bytes.drop i.toNat).length := List.length_filterMap_le _ _
      _ ≤ s.frame.bytes.length := by simp
      _ = 7 := rfl
  next => exact Nat.zero_le _

/-- An EMIT takes the byte at the index off what is left to emit, the last byte too. -/
theorem State.Sending.remaining_eq_cons {s : State} {f : Frame} {i : BitVec 3} {b : Byte} (h : s.Sending f i)
    (hb : f.bytes[i.toNat]? = some b) : s.remaining = b :: ((s.emitByte b).nextIndex i).remaining := by
  obtain ⟨hlt, hget⟩ := List.getElem?_eq_some_iff.1 hb
  have hdrop : s.remaining = b :: f.bytes.drop (i.toNat + 1) := by
    rw [h.remaining_eq, List.drop_eq_getElem_cons hlt, hget]
  obtain ⟨hbusy, -, -, hframe⟩ := h
  rw [hdrop]
  by_cases h6 : i = 6#3
  · rw [State.remaining_of_idle (by simp [h6]), h6]
    rfl
  · have hsucc : (i + 1#3).toNat = i.toNat + 1 := by
      have h7 : i.toNat < 7 := hlt
      simp only [BitVec.toNat_add, BitVec.toNat_ofNat]
      omega
    rw [State.remaining_of_busy (i := i + 1#3) (f := f) (by simp [h6, hbusy]) (by simp [h6]) (by simp [hframe]), hsucc]

/-! ### Conservation of the stream (R47) -/

/-- Only a step that accepts adds to the bytes emitted and still to be emitted, and it adds its request's frame. -/
theorem step_stream_append_remaining {s t : State} (hr : s.ports.rst = false) (h : step s = .next t) :
    t.m.stream ++ t.remaining = s.m.stream ++ s.remaining
      ++ if s.selected s.ports = some .accept then (frameEncode s.ports.req).bytes else [] := by
  obtain ⟨hr', -⟩ | ⟨-, hI, hv, rfl⟩ | ⟨-, hI, hv, u, hu, rfl⟩ | ⟨-, ho, f, i, b, hS, hb, rfl⟩
    | ⟨-, ho, ⟨f, i, hS⟩, rfl⟩ := step_eq_next h
  · simp [hr] at hr'
  · simp [State.selected_idle hr hI.1, hv]
  · have hcap := acceptRequest_captured hu
    have hrem := hcap.remaining_eq
    obtain ⟨-, -, -, hstream, -⟩ := hcap
    simp [State.selected_idle hr hI.1, hv, hstream, hrem, State.remaining_of_idle hI.1]
  · simp [State.selected_busy hr hS.1, ho, hS.remaining_eq_cons hb]
  · simp [State.selected_busy hr hS.1, ho]

/-- The requests a run accepts are its first step's, if that accepts, and then those of the rest. -/
theorem acceptedOn_cons {p : Inputs} {ps : List Inputs} {s t : State} (h : step { s with ports := p } = .next t) :
    acceptedOn (p :: ps) s = (if s.selected p = some .accept then [p.req] else []) ++ acceptedOn ps t := by
  simp only [acceptedOn, h]
  split <;> rfl

/-- A run without a reset adds the frames of the requests it accepts, in order. -/
theorem runOn_stream_append_remaining : ∀ {ps : List Inputs} {s t : State}, (∀ p ∈ ps, p.rst = false) →
    runOn ps s = .next t → t.m.stream ++ t.remaining
      = s.m.stream ++ s.remaining ++ (acceptedOn ps s).flatMap fun q => (frameEncode q).bytes
  | [], s, _, _, h => by
    cases h
    simp [acceptedOn]
  | p :: ps, s, t, hr, h => by
    obtain ⟨u, hu, hrun⟩ := runOn_cons_eq_next h
    obtain ⟨hp, hps⟩ := List.forall_mem_cons.1 hr
    have hstep : u.m.stream ++ u.remaining = s.m.stream ++ s.remaining
        ++ if s.selected p = some .accept then (frameEncode p.req).bytes else [] :=
      step_stream_append_remaining (s := { s with ports := p }) hp hu
    rw [runOn_stream_append_remaining hps hrun, hstep, acceptedOn_cons hu]
    split <;> simp

/-- A reset emits nothing and leaves nothing to emit. -/
theorem step_reset_stream_remaining {s t : State} (hr : s.ports.rst = true) (h : step s = .next t) :
    t.m.stream = s.m.stream ∧ t.remaining = [] := by
  obtain ⟨u, hu, rfl⟩ := exec_of_step_eq_next (State.selected_rst hr) h
  cases exec_reset_eq_next hu
  exact ⟨rfl, State.remaining_of_idle rfl⟩

/-- Settles O28: what a step does to the bytes emitted and still to be emitted, by induction on the run's inputs. -/
theorem streamIsTheAcceptedFrames : Obligations.StreamIsTheAcceptedFrames :=
  ⟨fun _ _ _ => runOn_stream_append_remaining, fun _ _ => step_reset_stream_remaining, State.length_remaining_le⟩

end Sys2Proof.Machine
end


section
/-! PROOFS. The control vector and the operation a step performs (R70, R110). -/

namespace Sys2Proof.Machine

/-- The control vector's bits, `rst` first (R70). -/
theorem ctlOf_bits : ∀ rst busy inValid outReady : Bool,
    (ctlOf rst busy inValid outReady).getLsbD 3 = rst ∧ (ctlOf rst busy inValid outReady).getLsbD 2 = busy
      ∧ (ctlOf rst busy inValid outReady).getLsbD 1 = inValid
      ∧ (ctlOf rst busy inValid outReady).getLsbD 0 = outReady := by
  decide

/-- The rows of R70 are disjoint and cover all vectors: a vector is of exactly the row that is selected. -/
theorem selectOp_eq_iff (c : Ctl) (o : CtlOp) : c &&& o.mask = o.pattern ↔ selectOp c = o := by
  cases o <;> revert c <;> decide

/-- The operation of each row of R70, by the bits of the vector. -/
theorem selectOp_ctlOf : ∀ x y z : Bool,
    selectOp (ctlOf true x y z) = .reset ∧ selectOp (ctlOf false false false x) = .idle
      ∧ selectOp (ctlOf false false true x) = .accept ∧ selectOp (ctlOf false true x true) = .emit
      ∧ selectOp (ctlOf false true x false) = .stall := by
  decide

/-- Without a reset, a state whose `busy` holds a value selects the operation of its control vector. -/
theorem State.selected_of_busy {s : State} {p : Inputs} {b : Bool} (hr : p.rst = false) (hb : s.busy = some b) :
    s.selected p = some (selectOp (ctlOf false b p.inValid p.outReady)) := by
  simp [State.selected, hr, hb]

/-- A step performs the selected operation. -/
theorem step_of_selected {s : State} {o : CtlOp} (ho : s.selected s.ports = some o) :
    step s = finishStep (exec o.toInstr s) := by
  rw [step_eq_performWith, exec_toInstr s ho]

/-- Settles O3: the rows by enumeration, the steps by the operation that is selected. -/
theorem eachStepPerformsTheSelectedOperation : Obligations.EachStepPerformsTheSelectedOperation :=
  ⟨ctlOf_bits, selectOp_eq_iff, selectOp_ctlOf,
    fun _ hr => step_of_selected (State.selected_rst hr),
    fun s hr hill => step_of_not_wellFormed hr (s.illFormed_iff.1 hill),
    fun _ _ hr _ hb => step_of_selected (State.selected_of_busy hr hb)⟩

end Sys2Proof.Machine
end

section
/-! PROOFS. The layout of a frame by position, and cmd2 by the bit map: its bits, its bound, and the rows of the opcode
table it matches (R60 to R63, R66). -/

namespace Sys2Proof

/-- The fields of a packed frame, by their position (R60). -/
theorem Frame.packed_fields (f : Frame) :
    f.packed.extractLsb' 48 8 = f.sync ∧ f.packed.extractLsb' 40 8 = f.addr ∧ f.packed.extractLsb' 32 8 = f.cmd1
      ∧ f.packed.extractLsb' 24 8 = f.cmd2 ∧ f.packed.extractLsb' 16 8 = f.data1
      ∧ f.packed.extractLsb' 8 8 = f.data2 ∧ f.packed.extractLsb' 0 8 = f.checksum := by
  have h := Frame.ofPacked_packed f
  exact ⟨congrArg Frame.sync h, congrArg Frame.addr h, congrArg Frame.cmd1 h, congrArg Frame.cmd2 h,
    congrArg Frame.data1 h, congrArg Frame.data2 h, congrArg Frame.checksum h⟩

/-! ### cmd2 (R62, R63): checks over the six flags -/

/-- cmd2, bit by bit (R62). -/
theorem cmd2Bits_bits (q : Request) :
    (cmd2Bits q).getLsbD 7 = false ∧ (cmd2Bits q).getLsbD 6 = (q.wide && !q.tele)
      ∧ (cmd2Bits q).getLsbD 5 = q.tele ∧ (cmd2Bits q).getLsbD 4 = q.down ∧ (cmd2Bits q).getLsbD 3 = q.up
      ∧ (cmd2Bits q).getLsbD 2 = q.left ∧ (cmd2Bits q).getLsbD 1 = q.right ∧ (cmd2Bits q).getLsbD 0 = false := by
  obtain ⟨addr, right, left, up, down, tele, wide, pan, tilt⟩ := q
  revert right left up down tele wide
  simp only [cmd2Bits]
  decide

/-- No cmd2 is above wide with every direction set (R63). -/
theorem cmd2Bits_toNat_le (q : Request) : (cmd2Bits q).toNat ≤ 0x5E := by
  obtain ⟨addr, right, left, up, down, tele, wide, pan, tilt⟩ := q
  revert right left up down tele wide
  simp only [cmd2Bits]
  decide

/-- With at most one zoom flag, the flag field of the stimulus word is cmd2[6:1] (R71). -/
theorem flagField_eq_extractLsb' (q : Request) (h : ¬(q.tele = true ∧ q.wide = true)) :
    flagField q = (cmd2Bits q).extractLsb' 1 6 := by
  obtain ⟨addr, right, left, up, down, tele, wide, pan, tilt⟩ := q
  revert h right left up down tele wide
  simp only [flagField, cmd2Bits]
  decide

/-! ### The commands of a frame (R66) -/

/-- The request asks for the command: it has the command's flag, wide beside tele excepted (R88), and for STOP no flag
(R89). -/
def FrameCmd.requestedBy (q : Request) : FrameCmd → Bool
  | .stop => q.noFlags
  | .panRight => q.right
  | .panLeft => q.left
  | .tiltUp => q.up
  | .tiltDown => q.down
  | .zoomTele => q.tele
  | .zoomWide => q.wide && !q.tele

/-- The bits of cmd2 that a command's row tests are the row's exactly when the request asks for the command
(R66). -/
theorem cmd2Bits_and_mask_iff (c : FrameCmd) (q : Request) :
    cmd2Bits q &&& c.cmd2Mask = c.cmd2Pattern ↔ c.requestedBy q = true := by
  obtain ⟨addr, right, left, up, down, tele, wide, pan, tilt⟩ := q
  revert right left up down tele wide
  cases c <;>
    simp only [FrameCmd.requestedBy, Request.noFlags, cmd2Bits, FrameCmd.cmd2Mask, FrameCmd.cmd2Pattern] <;>
    decide

/-- cmd2 is 0x00 exactly when no flag is set (R89): STOP's row tests every bit of it. -/
theorem cmd2Bits_eq_zero_iff (q : Request) : cmd2Bits q = 0x00#8 ↔ q.noFlags = true := by
  have hstop := cmd2Bits_and_mask_iff .stop q
  rwa [show cmd2Bits q &&& FrameCmd.stop.cmd2Mask = cmd2Bits q from BitVec.and_allOnes] at hstop

/-- A packed frame carries a command exactly when it matches the command's row. -/
theorem mem_commandsOf_iff (w : Frame56) (c : FrameCmd) : c ∈ commandsOf w ↔ w &&& c.mask = c.pattern := by
  have hall : c ∈ FrameCmd.all := by cases c <;> decide
  simp [commandsOf, FrameCmd.covers, hall]

end Sys2Proof
end

section
/-! PROOFS. The frame of a request: its fields (R60 to R64), its checksum, the frame decode (R65, R96), the commands it
carries (R66), and the shapes it never has (R67, R69). -/

namespace Sys2Proof.Machine

/-! ### The bytes -/

@[simp] theorem frameEncode_sync (q : Request) : (frameEncode q).sync = 0xFF#8 := rfl
@[simp] theorem frameEncode_addr (q : Request) : (frameEncode q).addr = q.addr := rfl
@[simp] theorem frameEncode_cmd1 (q : Request) : (frameEncode q).cmd1 = 0x00#8 := rfl
@[simp] theorem frameEncode_data1 (q : Request) : (frameEncode q).data1 = q.pan := rfl
@[simp] theorem frameEncode_data2 (q : Request) : (frameEncode q).data2 = q.tilt := rfl

/-- OR-ing the command masks gives the byte in which the layout table places the flags (R62, R90). -/
@[simp] theorem frameEncode_cmd2 (q : Request) : (frameEncode q).cmd2 = cmd2Bits q := by
  have h : ∀ right left up down tele wide : Bool, cmd2Of ⟨0#8, right, left, up, down, tele, wide, 0#8, 0#8⟩
      = cmd2Bits ⟨0#8, right, left, up, down, tele, wide, 0#8, 0#8⟩ := by decide
  exact h q.right q.left q.up q.down q.tele q.wide

/-- The checksum is the exact sum of bytes 1 to 5 mod 255 (R91): the reduced sum fits the byte. -/
theorem frameEncode_checksum_toNat (q : Request) : (frameEncode q).checksum.toNat = (frameEncode q).bodySum % 255 := by
  have hlt : (frameEncode q).bodySum % 255 < 2 ^ 8 := (Nat.mod_lt _ (by decide)).trans (by decide)
  exact Nat.mod_eq_of_lt hlt

/-- A sum mod 255 is never 0xFF (R92). -/
theorem frameEncode_checksum_ne_ff (q : Request) : (frameEncode q).checksum ≠ 0xFF#8 := by
  intro h
  have hlt : (frameEncode q).checksum.toNat < 255 := by
    rw [frameEncode_checksum_toNat]
    exact Nat.mod_lt _ (by decide)
  simp [h] at hlt

/-- Settles O44: the fields of the packed frame, the bits of cmd2, and the copied bytes. -/
theorem frameLayoutAndBitMap : Obligations.FrameLayoutAndBitMap := by
  intro q
  refine ⟨(frameEncode q).packed_fields, ?_, rfl, rfl, rfl, rfl, frameEncode_checksum_toNat q⟩
  rw [frameEncode_cmd2]
  exact cmd2Bits_bits q

/-- Settles O45: bits 7 and 0 by the bit map, and wide stands in bit 6 only without tele in bit 5. -/
theorem reservedCommandBitsAreZero : Obligations.ReservedCommandBitsAreZero := by
  intro q
  obtain ⟨h7, h6, h5, -, -, -, -, h0⟩ := cmd2Bits_bits q
  have hle := cmd2Bits_toNat_le q
  rw [frameEncode_cmd2]
  refine ⟨h7, h0, ?_, hle.trans (by decide), hle⟩
  rw [h5, h6]
  cases q.tele <;> simp

/-! ### The frame decode (R65, R96) -/

/-- The frame decode gives the request back, wide beside tele excepted. -/
theorem frameEncode_request (q : Request) : (frameEncode q).request = { q with wide := q.wide && !q.tele } := by
  obtain ⟨-, h6, h5, h4, h3, h2, h1, -⟩ := cmd2Bits_bits q
  simp only [Frame.request, frameEncode_cmd2, h6, h5, h4, h3, h2, h1]
  rfl

/-- The block's frames have a right checksum. -/
theorem frameEncode_checksumOk (q : Request) : (frameEncode q).checksumOk = true :=
  beq_iff_eq.2 (frameEncode_checksum_toNat q)

/-- Settles O50: the decode of a request's frame, by whether both zoom flags are set. -/
theorem frameDecodeRecoversTheRequest : Obligations.FrameDecodeRecoversTheRequest := by
  refine ⟨fun f => ⟨rfl, rfl, rfl, rfl, rfl, rfl, rfl, rfl, beq_iff_eq⟩, fun q h => ?_, fun q ht hw => ?_,
    frameEncode_checksumOk⟩
  · have hwide : (q.wide && !q.tele) = q.wide := by
      revert h
      cases q.tele <;> cases q.wide <;> decide
    rw [frameEncode_request, hwide]
  · rw [frameEncode_request, ht, hw]
    rfl

/-! ### The commands of a frame (R66) -/

/-- The frame of a request carries the commands the request asks for. -/
theorem mem_commandsOf_frameEncode_iff (q : Request) (c : FrameCmd) :
    c ∈ commandsOf (frameEncode q).packed ↔ c.requestedBy q = true := by
  rw [← cmd2Bits_and_mask_iff, mem_commandsOf_iff, ← beq_iff_eq]
  refine (FrameCmd.covers_packed_iff c (frameEncode q)).trans ?_
  simp

/-- Settles O54: a frame carries what its request asks for. -/
theorem frameCarriesEveryCommandItMatches : Obligations.FrameCarriesEveryCommandItMatches := by
  refine ⟨mem_commandsOf_iff, fun q => ?_, rfl, rfl⟩
  simp only [mem_commandsOf_frameEncode_iff, frameEncode_cmd2, cmd2Bits_eq_zero_iff]
  simp [FrameCmd.requestedBy]

/-! ### Where 0xFF stands, and the shapes never produced (R67, R69) -/

/-- In the contract both speeds are at most 0x39 (R131, c2). -/
theorem speed_le_of_contract {q : Request} (h : contract q = true) : q.pan ≤ 0x39#8 ∧ q.tilt ≤ 0x39#8 := by
  simp only [contract, speedOk, Bool.and_eq_true] at h
  obtain ⟨⟨⟨⟨⟨-, hpan, htilt⟩, -⟩, -⟩, -⟩, -⟩ := h
  exact ⟨of_decide_eq_true hpan, of_decide_eq_true htilt⟩

/-- A byte within a bound below 0xFF is not 0xFF. -/
theorem ne_ff_of_le {b c : Byte} (h : b ≤ c) (hc : c < 0xFF#8) : b ≠ 0xFF#8 := by
  rintro rfl
  exact BitVec.not_lt.2 h hc

/-- Settles O55: the bounds on cmd2 and the speeds, and requests that reach 0xFF where there is no bound. -/
theorem frameLengthAndWhereFFStands : Obligations.FrameLengthAndWhereFFStands := by
  refine ⟨fun _ => rfl, ⟨⟨0xFF#8, false, false, false, false, false, false, 0x00#8, 0x00#8⟩, by decide, rfl⟩,
    fun q hq => ?_, frameEncode_checksum_ne_ff,
    ⟨⟨0x01#8, true, false, true, false, false, false, 0xFF#8, 0xFF#8⟩, rfl, rfl⟩⟩
  have hcmd2 : cmd2Bits q ≤ 0x5E#8 := cmd2Bits_toNat_le q
  obtain ⟨hpan, htilt⟩ := speed_le_of_contract hq
  refine ⟨by simp, ?_, ne_ff_of_le hpan (by decide), ne_ff_of_le htilt (by decide)⟩
  rw [frameEncode_cmd2]
  exact ne_ff_of_le hcmd2 (by decide)

/-- Settles O59: the frame of a request has none of the six shapes. -/
theorem shapesNeverProduced : Obligations.ShapesNeverProduced := by
  rintro f h q rfl
  obtain ⟨h7, h0, hzoom, -⟩ := reservedCommandBitsAreZero q
  rcases h with h | h | h | h | h | h | h
  · exact h rfl
  · exact h rfl
  · exact Bool.false_ne_true (h7.symm.trans h)
  · exact Bool.false_ne_true (h0.symm.trans h)
  · exact hzoom h
  · exact h (frameEncode_checksum_toNat q)
  · exact frameEncode_checksum_ne_ff q h

end Sys2Proof.Machine
end

section
/-! PROOFS. The stimulus word (R71): the word and the inputs of a step, both ways, and what its request bits are without
a request. -/

namespace Sys2Proof

/-! ### The word and the inputs -/

/-- The byte-wide fields of the word, by their position (R71). -/
theorem encodeStep33_bytes (p : Inputs) :
    (encodeStep33 p).extractLsb' 22 8 = p.req.addr ∧ (encodeStep33 p).extractLsb' 8 8 = p.req.pan
      ∧ (encodeStep33 p).extractLsb' 0 8 = p.req.tilt := by
  refine ⟨?_, ?_, ?_⟩ <;> refine BitVec.eq_of_getLsbD_eq fun i hi => ?_ <;>
    simp only [BitVec.getLsbD_extractLsb', encodeStep33_getLsbD] <;> grind

theorem decodeStep33_encodeStep33 (p : Inputs) : decodeStep33 (encodeStep33 p) = p := by
  obtain ⟨haddr, hpan, htilt⟩ := encodeStep33_bytes p
  simp only [decodeStep33, haddr, hpan, htilt, encodeStep33_getLsbD, flagField_getLsbD]
  rfl

theorem encodeStep33_decodeStep33 (w : Step33) : encodeStep33 (decodeStep33 w) = w := by
  refine BitVec.eq_of_getLsbD_eq fun i hi => ?_
  simp only [encodeStep33_getLsbD, flagField_getLsbD, decodeStep33, BitVec.getLsbD_extractLsb']
  grind

/-- The request bits of the word of a step with the all-zero request are 0. -/
theorem encodeStep33_low_of_req_zero {p : Inputs} (h : p.req = Machine.Inputs.zero.req) :
    (encodeStep33 p).extractLsb' 0 30 = 0#30 := by
  refine BitVec.eq_of_getLsbD_eq fun i hi => ?_
  simp only [BitVec.getLsbD_extractLsb', encodeStep33_getLsbD, flagField_getLsbD, h, Machine.Inputs.zero]
  grind

end Sys2Proof

namespace Sys2Proof.Machine

/-! ### A step without a request -/

theorem finishStep_guarded_ports {s : State} {p : Inputs} {k k' : Host.Outcome State Fault Refusal}
    (h : finishStep k = finishStep k') : finishStep (guarded { s with ports := p } k) = finishStep (guarded s k') := by
  have hw : State.wellFormed { s with ports := p } = s.wellFormed := rfl
  unfold guarded
  rw [hw]
  split
  · exact h
  · rfl

theorem finishStep_acceptRequest_ports (q : Request) (s : State) (p : Inputs) :
    finishStep (acceptRequest q { s with ports := p }) = finishStep (acceptRequest q s) := by
  obtain ⟨busy, idx, frame, m, policy, steps, ports, schedule⟩ := s
  unfold acceptRequest
  split
  · rfl
  · cases policy <;> rfl

theorem finishStep_emitOffered_ports (s : State) (p : Inputs) :
    finishStep (emitOffered { s with ports := p }) = finishStep (emitOffered s) := by
  obtain ⟨busy, idx, frame, m, policy, steps, ports, schedule⟩ := s
  unfold emitOffered
  cases idx with
  | none => rfl
  | some i =>
    cases hb : frame.byteAt i with
    | none =>
      simp only [hb]
      rfl
    | some b =>
      simp only [hb, State.nextIndex]
      split <;> rfl

/-- An operation given its inputs does not read the ports of the state, and after the step they are gone. -/
theorem finishStep_performWith_ports (p p' : Inputs) (s : State) :
    finishStep (performWith p { s with ports := p' }) = finishStep (performWith p s) := by
  have hsel : State.selected { s with ports := p' } p = s.selected p := rfl
  unfold performWith
  rw [hsel]
  cases s.selected p with
  | none => rfl
  | some o =>
    cases o with
    | reset => rfl
    | idle => exact finishStep_guarded_ports rfl
    | accept => exact finishStep_guarded_ports (finishStep_acceptRequest_ports ..)
    | emit => exact finishStep_guarded_ports (finishStep_emitOffered_ports ..)
    | stall => exact finishStep_guarded_ports rfl

/-- ACCEPT is not selected without a request (R70). -/
theorem State.selected_ne_accept {s : State} {p : Inputs} (hv : p.inValid = false) :
    s.selected p ≠ some .accept := by
  cases hr : p.rst with
  | true => simp [State.selected_rst hr]
  | false =>
    rcases hb : s.busy with _ | _ | _
    · simp [State.selected_none hr hb]
    · simp [State.selected_idle hr hb, hv]
    · cases ho : p.outReady <;> simp [State.selected_busy hr hb, ho]

/-- Without a request, `rst` and `out_ready` are all that a step reads of its inputs. -/
theorem performWith_eq_of_not_inValid {s : State} {p p' : Inputs} (hr : p.rst = p'.rst)
    (hv : p.inValid = false) (hv' : p'.inValid = false) (ho : p.outReady = p'.outReady) :
    performWith p s = performWith p' s := by
  have hsel : s.selected p = s.selected p' := by simp only [State.selected, hr, hv, hv', ho]
  unfold performWith
  rw [← hsel]
  cases h : s.selected p with
  | none => rfl
  | some o =>
    cases o with
    | accept => exact absurd h (State.selected_ne_accept hv)
    | reset | idle | emit | stall => rfl

theorem step_eq_of_not_inValid (s : State) {p p' : Inputs} (hr : p.rst = p'.rst)
    (hv : p.inValid = false) (hv' : p'.inValid = false) (ho : p.outReady = p'.outReady) :
    step { s with ports := p } = step { s with ports := p' } :=
  calc step { s with ports := p }
    _ = finishStep (performWith p { s with ports := p }) := step_eq_performWith _
    _ = finishStep (performWith p s) := finishStep_performWith_ports ..
    _ = finishStep (performWith p' s) := by rw [performWith_eq_of_not_inValid hr hv hv' ho]
    _ = finishStep (performWith p' { s with ports := p' }) := (finishStep_performWith_ports ..).symm
    _ = step { s with ports := p' } := (step_eq_performWith _).symm

/-- Two words that agree in their three control bits, with no request, are the same step. -/
theorem step_decodeStep33_eq (s : State) {w w' : Step33} (hv : w.getLsbD 31 = false)
    (h : w.extractLsb' 30 3 = w'.extractLsb' 30 3) :
    step { s with ports := decodeStep33 w } = step { s with ports := decodeStep33 w' } := by
  have hbit (i : Nat) (hi : i < 3) : w.getLsbD (30 + i) = w'.getLsbD (30 + i) := by
    simpa [hi] using congrArg (BitVec.getLsbD · i) h
  exact step_eq_of_not_inValid s (hbit 2 (by decide)) hv ((hbit 1 (by decide)).symm.trans hv) (hbit 0 (by decide))

/-! ### The assembler (R72) -/

/-- Without a request, the request fields of the inputs are those of the line `step`: all 0. -/
def ZeroUnlessValid (p : Inputs) : Prop := p.inValid = false → p.req = Inputs.zero.req

theorem zeroUnlessValid_zero : ZeroUnlessValid Inputs.zero := fun _ => rfl

/-- Only the item that sets `in_valid` writes the request fields. -/
theorem parseItem_zeroUnlessValid {w : List Char} {p p' : Inputs} (h : parseItem w p = some p')
    (hp : ZeroUnlessValid p) : ZeroUnlessValid p' := by
  unfold parseItem at h
  split at h
  · cases h; exact hp
  · cases h; exact hp
  · split at h
    · cases h
    · split at h
      · cases h; exact fun hv => nomatch hv
      · cases h
  · cases h

theorem parseItems_zeroUnlessValid : ∀ {ws : List (List Char)} {p p' : Inputs}, parseItems ws p = some p' →
    ZeroUnlessValid p → ZeroUnlessValid p'
  | [], _, _, h, hp => by cases h; exact hp
  | w :: ws, p, p', h, hp => by
    unfold parseItems at h
    split at h
    next hw => exact parseItems_zeroUnlessValid h (parseItem_zeroUnlessValid hw hp)
    next => cases h

theorem parseAfterStep_zeroUnlessValid {ws : List (List Char)} {n : Nat} {p : Inputs}
    (h : parseAfterStep ws = some (n, p)) : ZeroUnlessValid p := by
  unfold parseAfterStep at h
  split at h
  · split at h
    next hitems =>
      split at h
      · cases h
      · cases h; exact parseItems_zeroUnlessValid hitems zeroUnlessValid_zero
    next => cases h
  · split at h
    next hitems => cases h; exact parseItems_zeroUnlessValid hitems zeroUnlessValid_zero
    next => cases h

theorem assembleLine_zeroUnlessValid {line : List Char} {ps : List Inputs} (h : assembleLine line = some ps)
    {p : Inputs} (hp : p ∈ ps) : ZeroUnlessValid p := by
  unfold assembleLine at h
  split at h
  · cases h; cases hp
  · split at h
    next hstep =>
      cases h
      cases List.eq_of_mem_replicate hp
      exact parseAfterStep_zeroUnlessValid hstep
    next => cases h
  · cases h

/-- Settles O56: the round trips bit by bit, the step by what it reads without a request, and the assembler by what it
writes without one. -/
theorem stimulusWordRoundTrip : Obligations.StimulusWordRoundTrip := by
  refine ⟨fun w => ⟨rfl, rfl, rfl, rfl, rfl, rfl, rfl, rfl, rfl, rfl, rfl, rfl⟩, decodeStep33_encodeStep33,
    encodeStep33_decodeStep33, fun s w w' => step_decodeStep33_eq s,
    fun line ps h p hp hv => encodeStep33_low_of_req_zero (assembleLine_zeroUnlessValid h hp hv), fun q hq => ?_⟩
  rw [frameEncode_cmd2]
  exact flagField_eq_extractLsb' q hq

end Sys2Proof.Machine
end

section
/-! PROOFS. What breaks the input contract, by its reason codes (R131), and cmd2 by its pairs of opposite commands
(R83 to R88). -/

namespace Sys2Proof.Machine

/-! ### The input contract (R131) -/

/-- A request in the contract meets the condition of every reason code. -/
theorem holdsFor_of_contract {q : Request} (h : contract q = true) (r : ContractReason) : r.holdsFor q = true := by
  simp only [contract, Bool.and_eq_true] at h
  obtain ⟨⟨⟨⟨⟨haddr, hspeed⟩, hpan⟩, htilt⟩, hpanSpeed⟩, htiltSpeed⟩ := h
  cases r <;> assumption

/-- One failing condition breaks the contract. -/
theorem contract_eq_false_of_reason {q : Request} (r : ContractReason) (h : r.holdsFor q = false) :
    contract q = false :=
  Bool.eq_false_iff.2 fun hc => Bool.false_ne_true (h.symm.trans (holdsFor_of_contract hc r))

/-- With both speeds 0, an address and no two opposite directions are all that the contract asks. -/
theorem contract_of_speed_zero {q : Request} (haddr : q.addr ≠ 0x00#8) (hpan : q.pan = 0x00#8)
    (htilt : q.tilt = 0x00#8) (hpanDir : panDirectionOk q = true) (htiltDir : tiltDirectionOk q = true) :
    contract q = true := by
  simp [contract, addrOk, speedOk, panSpeedOk, tiltSpeedOk, haddr, hpan, htilt, hpanDir, htiltDir,
    Config.maxSpeed]

theorem contract_eq_false_of_addr {q : Request} (haddr : q.addr = 0x00#8) : contract q = false :=
  contract_eq_false_of_reason .addrZero (by simp [ContractReason.holdsFor, addrOk, haddr])

theorem contract_eq_false_of_right_left {q : Request} (hr : q.right = true) (hl : q.left = true) :
    contract q = false :=
  contract_eq_false_of_reason .panBothDirections (by simp [ContractReason.holdsFor, panDirectionOk, hr, hl])

theorem contract_eq_false_of_up_down {q : Request} (hu : q.up = true) (hd : q.down = true) :
    contract q = false :=
  contract_eq_false_of_reason .tiltBothDirections (by simp [ContractReason.holdsFor, tiltDirectionOk, hu, hd])

theorem contract_eq_false_of_pan {q : Request} (hpan : q.pan ≠ 0x00#8) (hl : q.left = false)
    (hr : q.right = false) : contract q = false :=
  contract_eq_false_of_reason .panSpeedWithoutDirection (by
    simp [ContractReason.holdsFor, panSpeedOk, hpan, hl, hr])

theorem contract_eq_false_of_tilt {q : Request} (htilt : q.tilt ≠ 0x00#8) (hu : q.up = false)
    (hd : q.down = false) : contract q = false :=
  contract_eq_false_of_reason .tiltSpeedWithoutDirection (by
    simp [ContractReason.holdsFor, tiltSpeedOk, htilt, hu, hd])

/-- In the contract both speeds are at most 0x39 (R131, c2), as numbers. -/
theorem speed_toNat_le_of_contract {q : Request} (h : contract q = true) :
    q.pan.toNat ≤ 0x39 ∧ q.tilt.toNat ≤ 0x39 := speed_le_of_contract h

/-- A speed above 0x39 breaks the contract. -/
theorem contract_eq_false_of_speed {q : Request} (h : 0x3A ≤ q.pan.toNat ∨ 0x3A ≤ q.tilt.toNat) :
    contract q = false := by
  refine Bool.eq_false_iff.2 fun hc => ?_
  obtain ⟨hpan, htilt⟩ := speed_toNat_le_of_contract hc
  omega

/-! ### cmd2 by its pairs of commands (R83 to R88) -/

/-- The bits of cmd2 that both pan commands set. -/
theorem cmd2Bits_and_pan {q : Request} (hr : q.right = true) (hl : q.left = true) :
    cmd2Bits q &&& 0x06#8 = 0x06#8 := by
  have hbits : ∀ c : Byte, c.getLsbD 1 = true → c.getLsbD 2 = true → c &&& 0x06#8 = 0x06#8 := by decide
  obtain ⟨-, -, -, -, -, h2, h1, -⟩ := cmd2Bits_bits q
  exact hbits _ (h1.trans hr) (h2.trans hl)

/-- The bits of cmd2 that both tilt commands set. -/
theorem cmd2Bits_and_tilt {q : Request} (hu : q.up = true) (hd : q.down = true) :
    cmd2Bits q &&& 0x18#8 = 0x18#8 := by
  have hbits : ∀ c : Byte, c.getLsbD 3 = true → c.getLsbD 4 = true → c &&& 0x18#8 = 0x18#8 := by decide
  obtain ⟨-, -, -, h4, h3, -⟩ := cmd2Bits_bits q
  exact hbits _ (h3.trans hu) (h4.trans hd)

/-- With tele, of the zoom bits only its own is set, whatever wide is. -/
theorem cmd2Bits_of_tele {q : Request} (ht : q.tele = true) :
    (cmd2Bits q).getLsbD 6 = false ∧ cmd2Bits q &&& 0x60#8 = 0x20#8 := by
  have hbits : ∀ c : Byte, c.getLsbD 5 = true → c.getLsbD 6 = false → c &&& 0x60#8 = 0x20#8 := by decide
  obtain ⟨-, h6, h5, -⟩ := cmd2Bits_bits q
  rw [ht, Bool.not_true, Bool.and_false] at h6
  exact ⟨h6, hbits _ (h5.trans ht) h6⟩

/-- Without two opposite directions, no cmd2 is above wide with left and down (R92). -/
theorem cmd2Bits_toNat_le_of_directionOk {q : Request} (hpan : panDirectionOk q = true)
    (htilt : tiltDirectionOk q = true) : (cmd2Bits q).toNat ≤ 0x54 := by
  obtain ⟨addr, right, left, up, down, tele, wide, pan, tilt⟩ := q
  revert hpan htilt right left up down tele wide
  simp only [cmd2Bits, panDirectionOk, tiltDirectionOk]
  decide

end Sys2Proof.Machine
end

section
/-! PROOFS. The seven commands in cmd2 (R83 to R90), and the bytes that are fixed or copied (R81, R82, R93). -/

namespace Sys2Proof.Machine

/-! ### The pan commands (R83, R84) -/

/-- Right with left breaks the contract, and cmd2 holds both bits; without another flag, these alone. -/
theorem frameEncode_cmd2_of_right_left (q : Request) (hr : q.right = true) (hl : q.left = true) :
    contract q = false ∧ (frameEncode q).cmd2 &&& 0x06#8 = 0x06#8
      ∧ (q.up = false → q.down = false → q.tele = false → q.wide = false → (frameEncode q).cmd2 = 0x06#8) := by
  refine ⟨contract_eq_false_of_right_left hr hl, ?_, fun hu hd ht hw => ?_⟩
  · rw [frameEncode_cmd2, cmd2Bits_and_pan hr hl]
  · simp [cmd2Bits, hr, hl, hu, hd, ht, hw]

/-- Settles O35: bit 1 by the bit map, which no speed enters. -/
theorem panRightSetsItsBit : Obligations.PanRightSetsItsBit := by
  refine ⟨fun q => ?_, fun _ _ => rfl, fun a ha => contract_of_speed_zero ha rfl rfl rfl rfl,
    frameEncode_cmd2_of_right_left, by decide⟩
  obtain ⟨-, -, -, -, -, -, h1, -⟩ := cmd2Bits_bits q
  rw [frameEncode_cmd2, h1]

/-- Settles O36: bit 2 by the bit map, which no speed enters. -/
theorem panLeftSetsItsBit : Obligations.PanLeftSetsItsBit := by
  refine ⟨fun q => ?_, fun _ _ => rfl, fun a ha => contract_of_speed_zero ha rfl rfl rfl rfl,
    frameEncode_cmd2_of_right_left, by decide⟩
  obtain ⟨-, -, -, -, -, h2, -⟩ := cmd2Bits_bits q
  rw [frameEncode_cmd2, h2]

/-! ### The tilt commands (R85, R86) -/

/-- Up with down breaks the contract, and cmd2 holds both bits; without another flag, these alone. -/
theorem frameEncode_cmd2_of_up_down (q : Request) (hu : q.up = true) (hd : q.down = true) :
    contract q = false ∧ (frameEncode q).cmd2 &&& 0x18#8 = 0x18#8
      ∧ (q.right = false → q.left = false → q.tele = false → q.wide = false → (frameEncode q).cmd2 = 0x18#8) := by
  refine ⟨contract_eq_false_of_up_down hu hd, ?_, fun hr hl ht hw => ?_⟩
  · rw [frameEncode_cmd2, cmd2Bits_and_tilt hu hd]
  · simp [cmd2Bits, hr, hl, hu, hd, ht, hw]

/-- Settles O37: bit 3 by the bit map, which no speed enters. -/
theorem tiltUpSetsItsBit : Obligations.TiltUpSetsItsBit := by
  refine ⟨fun q => ?_, fun _ _ => rfl, frameEncode_cmd2_of_up_down, by decide⟩
  obtain ⟨-, -, -, -, h3, -⟩ := cmd2Bits_bits q
  rw [frameEncode_cmd2, h3]

/-- Settles O38: bit 4 by the bit map, which no speed enters. -/
theorem tiltDownSetsItsBit : Obligations.TiltDownSetsItsBit := by
  refine ⟨fun q => ?_, fun _ _ => rfl, frameEncode_cmd2_of_up_down, by decide⟩
  obtain ⟨-, -, -, h4, -⟩ := cmd2Bits_bits q
  rw [frameEncode_cmd2, h4]

/-! ### The zoom commands (R87, R88) -/

/-- Tele is checked before wide. -/
theorem zoomBits_of_tele {q : Request} (h : q.tele = true) : zoomBits q = 0x20#8 := if_pos h

/-- With tele, the wide flag does not enter the frame, its checksum neither. -/
theorem frameEncode_wide_of_tele {q : Request} (h : q.tele = true) (wide : Bool) :
    frameEncode { q with wide := wide } = frameEncode q := by
  have hcmd2 : cmd2Of { q with wide := wide } = cmd2Of q := by
    simp only [cmd2Of, zoomBits_of_tele h, zoomBits_of_tele (q := { q with wide := wide }) h]
    rfl
  simp only [frameEncode, hcmd2]

/-- Settles O39: bit 5 by the bit map, and with it the zoom bits are tele's alone; the contract reads no zoom flag. -/
theorem zoomTeleSetsItsBit : Obligations.ZoomTeleSetsItsBit := by
  refine ⟨fun q => ?_, fun q ht => ?_, fun _ => rfl, fun _ _ => ⟨rfl, rfl⟩, by decide⟩
  · obtain ⟨-, -, h5, -⟩ := cmd2Bits_bits q
    rw [frameEncode_cmd2, h5]
  · rw [frameEncode_cmd2]
    exact cmd2Bits_of_tele ht

/-- Settles O40: bit 6 by the bit map, and the frame with tele, which wide does not enter. -/
theorem zoomWideSetsItsBit : Obligations.ZoomWideSetsItsBit := by
  refine ⟨fun q => ?_, fun q ht => (frameEncode_wide_of_tele ht true).trans
    (frameEncode_wide_of_tele ht false).symm, by decide, by decide⟩
  obtain ⟨-, h6, -⟩ := cmd2Bits_bits q
  rw [frameEncode_cmd2, h6]

/-! ### The commands together (R90) -/

/-- What the commands contribute to cmd2 (R83 to R88). -/
def contributions (q : Request) : List Byte := [rightBits q, leftBits q, upBits q, downBits q, zoomBits q]

/-- cmd2 is the OR of the contributions. -/
theorem foldr_or_contributions (q : Request) : (contributions q).foldr (· ||| ·) 0x00#8 = (frameEncode q).cmd2 := by
  change _ = cmd2Of q
  simp only [contributions, List.foldr, BitVec.or_zero, cmd2Of]
  ac_rfl

/-- Settles O46: OR commutes, so the contributions may stand in any order. -/
theorem commandsComposeByOr : Obligations.CommandsComposeByOr := by
  refine ⟨fun q bs hbs => ?_, fun q => ?_, fun _ _ _ => by simp [cmd2Bits]⟩
  · have hperm : bs.Perm (contributions q) := hbs
    rw [hperm.foldr_eq, foldr_or_contributions]
  · obtain ⟨h7, -, -, -, -, -, -, h0⟩ := cmd2Bits_bits q
    rw [frameEncode_cmd2]
    exact ⟨h7, h0⟩

/-! ### The bytes that are fixed or copied (R80 to R82, R93) -/

/-- Settles O42: the bytes are copies whatever the contract says, and each case outside it has its reason code. -/
theorem fixedAndCopiedBytes : Obligations.FixedAndCopiedBytes :=
  ⟨fun _ => ⟨rfl, rfl⟩, fun _ => ⟨rfl, contract_eq_false_of_addr⟩, fun _ => ⟨rfl, rfl⟩,
    fun _ => speed_toNat_le_of_contract, fun _ => contract_eq_false_of_pan, fun _ => contract_eq_false_of_tilt,
    fun _ => contract_eq_false_of_speed, rfl, by decide⟩

end Sys2Proof.Machine
end

section
/-! PROOFS. The checksum and the ranges of the bytes (R91, R92, R95). -/

namespace Sys2Proof.Machine

/-- The checksum is a byte below 255, the one that the exact sum leaves (R91). -/
theorem frameEncode_checksum_eq_iff (q : Request) (c : Byte) :
    (frameEncode q).checksum = c ↔ (frameEncode q).bodySum % 255 = c.toNat := by
  rw [← BitVec.toNat_inj, frameEncode_checksum_toNat]

theorem frameEncode_checksum_toNat_le (q : Request) : (frameEncode q).checksum.toNat ≤ 0xFE := by
  rw [frameEncode_checksum_toNat]
  omega

/-- The exact sum, byte by byte: cmd1 adds nothing. -/
theorem frameEncode_bodySum (q : Request) : (frameEncode q).bodySum
    = q.addr.toNat + (cmd2Bits q).toNat + q.pan.toNat + q.tilt.toNat := by
  simp [Frame.bodySum]

/-- The largest sum of any request: three bytes of 0xFF and the largest cmd2 (R92). -/
theorem frameEncode_bodySum_le (q : Request) : (frameEncode q).bodySum ≤ 859 := by
  have haddr := q.addr.isLt
  have hcmd2 := cmd2Bits_toNat_le q
  have hpan := q.pan.isLt
  have htilt := q.tilt.isLt
  rw [frameEncode_bodySum]
  omega

/-- In the contract cmd2 is at most wide with left and down (R92). -/
theorem frameEncode_cmd2_toNat_le_of_contract {q : Request} (h : contract q = true) :
    (frameEncode q).cmd2.toNat ≤ 0x54 := by
  rw [frameEncode_cmd2]
  exact cmd2Bits_toNat_le_of_directionOk (holdsFor_of_contract h .panBothDirections)
    (holdsFor_of_contract h .tiltBothDirections)

/-- The largest sum of a request in the contract (R92). -/
theorem frameEncode_bodySum_le_of_contract {q : Request} (h : contract q = true) :
    (frameEncode q).bodySum ≤ 453 := by
  have haddr := q.addr.isLt
  have hcmd2 := frameEncode_cmd2_toNat_le_of_contract h
  obtain ⟨hpan, htilt⟩ := speed_toNat_le_of_contract h
  rw [frameEncode_cmd2] at hcmd2
  rw [frameEncode_bodySum]
  omega

/-- Settles O47: the sum's residue, and 510 is above every sum in the contract. -/
theorem checksumIsTheExactSumMod255 : Obligations.ChecksumIsTheExactSumMod255 := by
  intro q f sum
  have hchecksum (c : Byte) : f.checksum = c ↔ sum % 255 = c.toNat := frameEncode_checksum_eq_iff q c
  refine ⟨frameEncode_checksum_toNat q, fun h => (hchecksum _).2 ?_, fun h => (hchecksum _).2 ?_,
    fun h => (hchecksum _).2 ?_, fun hc h => ?_,
    ⟨⟨0xFF#8, false, false, false, false, false, false, 0xFF#8, 0x00#8⟩, by decide⟩, by decide⟩
  · rw [h]; rfl
  · rw [h]; rfl
  · rw [h]; rfl
  · have hle : sum ≤ 453 := frameEncode_bodySum_le_of_contract hc
    omega

/-- Settles O48: the bounds, and requests that reach them. -/
theorem checksumRangeAndLargestSums : Obligations.ChecksumRangeAndLargestSums := by
  refine ⟨fun q => ⟨frameEncode_checksum_toNat_le q, frameEncode_checksum_ne_ff q, ?_, frameEncode_bodySum_le q,
      fun hc => ⟨frameEncode_bodySum_le_of_contract hc, frameEncode_cmd2_toNat_le_of_contract hc⟩⟩,
    ⟨⟨0xFF#8, false, true, false, true, false, true, 0x39#8, 0x39#8⟩, by decide⟩,
    ⟨⟨0xFF#8, true, true, true, true, false, true, 0xFF#8, 0xFF#8⟩, by decide⟩⟩
  rw [frameEncode_checksum_eq_iff, Nat.dvd_iff_mod_eq_zero]
  rfl

/-- Settles O49: the bounds in the contract, cmd2's pairs by the bit map, and any byte copied as a speed. -/
theorem outputRanges : Obligations.OutputRanges := by
  refine ⟨fun q hc => ?_, fun q => ?_, fun b =>
    ⟨⟨⟨0x00#8, false, false, false, false, false, false, b, 0x00#8⟩, rfl⟩,
      ⟨⟨0x00#8, false, false, false, false, false, false, 0x00#8, b⟩, rfl⟩⟩⟩
  · obtain ⟨h7, h0, hzoom, -⟩ := reservedCommandBitsAreZero q
    obtain ⟨-, -, -, h4, h3, h2, h1, -⟩ := cmd2Bits_bits q
    obtain ⟨hpan, htilt⟩ := speed_toNat_le_of_contract hc
    refine ⟨rfl, ?_, rfl, frameEncode_cmd2_toNat_le_of_contract hc, h7, h0, hzoom, ?_, ?_, hpan, htilt,
      frameEncode_checksum_toNat_le q⟩
    · have haddr : q.addr ≠ 0x00#8 := fun h => by simp [contract_eq_false_of_addr h] at hc
      exact Nat.pos_of_ne_zero fun h => haddr (BitVec.eq_of_toNat_eq h)
    · rw [frameEncode_cmd2, h1, h2]
      exact fun ⟨hr, hl⟩ => by simp [contract_eq_false_of_right_left hr hl] at hc
    · rw [frameEncode_cmd2, h3, h4]
      exact fun ⟨hu, hd⟩ => by simp [contract_eq_false_of_up_down hu hd] at hc
  · rw [frameEncode_cmd2]
    exact cmd2Bits_toNat_le q

end Sys2Proof.Machine
end

section
/-! PROOFS. A request that is taken: its frame is captured (R80), and a ready sink is given all of it (R89). -/

namespace Sys2Proof.Machine

/-- Acceptance of a request that the state takes has a next state (R113, R133). -/
theorem State.Takes.acceptRequest_eq {s : State} {q : Request} (h : s.Takes q) :
    ∃ t, acceptRequest q s = .next t := by
  cases hc : contract q with
  | true => exact ⟨_, if_pos hc⟩
  | false =>
    have hp : s.policy = .compute := h.resolve_left (by simp [hc])
    exact ⟨(s.capture (frameEncode q)).markInferred q, by simp [acceptRequest, hc, hp]⟩

/-- ACCEPT in an idle block captures the frame of a request that is taken (R113). -/
theorem exec_accept_of_takes {s : State} (hI : s.Idling) (h : s.Takes s.ports.req) :
    ∃ t, exec .accept s = .next t ∧ Captured (frameEncode s.ports.req) s t := by
  obtain ⟨t, ht⟩ := h.acceptRequest_eq
  have hexec : exec .accept s = .next t := (guarded_of_wellFormed hI.wellFormed _).trans ht
  exact ⟨t, hexec, exec_accept_eq_next hexec⟩

/-- Settles O43: the pseudocode of R80 is the encoder's, and ACCEPT captures the frame of the request on the ports. -/
theorem encodeIsTheSevenBytes : Obligations.EncodeIsTheSevenBytes := by
  refine ⟨fun _ => rfl, fun s hI hc => ?_, by decide⟩
  obtain ⟨t, hexec, -, -, hframe, -⟩ := exec_accept_of_takes hI (.inl hc)
  exact ⟨t, hexec, hframe⟩

/-- An idle block takes the presented request in its next step (R113). -/
theorem step_of_takes {s : State} (hI : s.Idling) (hr : s.ports.rst = false) (hv : s.ports.inValid = true)
    (h : s.Takes s.ports.req) : ∃ u, step s = .next u.advance ∧ Captured (frameEncode s.ports.req) s u := by
  obtain ⟨u, hexec, hcap⟩ := exec_accept_of_takes hI h
  have hsel : s.selected s.ports = some .accept := by simp [State.selected_idle hr hI.1, hv]
  exact ⟨u, (step_of_selected hsel).trans (congrArg finishStep hexec), hcap⟩

/-- A block that offers a byte to a ready sink emits it in its next step (R114). -/
theorem State.Sending.step_eq {s : State} {f : Frame} {i : BitVec 3} {b : Byte} (hS : s.Sending f i)
    (hb : f.bytes[i.toNat]? = some b) (hr : s.ports.rst = false) (ho : s.ports.outReady = true) :
    step s = .next ((s.emitByte b).nextIndex i).advance := by
  have hsel : s.selected s.ports = some .emit := by simp [State.selected_busy hr hS.1, ho]
  have hexec : exec .emit s = .next ((s.emitByte b).nextIndex i) :=
    (guarded_of_wellFormed hS.wellFormed _).trans (emitOffered_of_sending hS hb)
  exact (step_of_selected hsel).trans (congrArg finishStep hexec)

/-- After an EMIT the block is well-formed: idle after byte 6, else offering the next byte. -/
theorem State.Sending.nextIndex_wellFormed {s : State} {f : Frame} {i : BitVec 3} (h : s.Sending f i) (b : Byte) :
    ((s.emitByte b).nextIndex i).advance.wellFormed = true := by
  obtain ⟨hbusy, -, h7, hf⟩ := h
  rw [State.wellFormed_iff]
  by_cases h6 : i = 6#3
  · exact .inl ⟨by simp [h6], 0#3, by simp [h6], by decide⟩
  · refine .inr ⟨f, i + 1#3, by simp [h6, hbusy], by simp [h6], ?_, by simp [hf]⟩
    simpa [h6] using nextIndex_idx_ne_seven h7

/-- A ready sink is given, in as many steps, the bytes that are left to emit, whatever requests stand on the ports. -/
theorem runOn_emits_remaining : ∀ {ps : List Inputs} {s : State}, s.wellFormed = true →
    (∀ p ∈ ps, p.rst = false ∧ p.outReady = true) → s.remaining.length = ps.length →
    ∃ t, runOn ps s = .next t ∧ t.m.stream = s.m.stream ++ s.remaining
  | [], s, _, _, hlen => ⟨s, rfl, by simp [List.eq_nil_of_length_eq_zero hlen]⟩
  | p :: ps, s, hw, hps, hlen => by
    obtain ⟨⟨hr, ho⟩, hps⟩ := List.forall_mem_cons.1 hps
    obtain hI | ⟨f, i, hS⟩ := s.wellFormed_iff.1 hw
    · simp [State.remaining_of_idle hI.1] at hlen
    · obtain ⟨b, hb⟩ := hS.exists_byte
      have hS' : State.Sending { s with ports := p } f i := hS
      have hrem : s.remaining = b :: _ := hS'.remaining_eq_cons hb
      rw [hrem] at hlen ⊢
      obtain ⟨t, hrun, hstream⟩ := runOn_emits_remaining (hS'.nextIndex_wellFormed b) hps (Nat.succ.inj hlen)
      exact ⟨t, by simp only [runOn, hS'.step_eq hb hr ho, hrun], by simp [hstream]⟩

/-- Settles O41: no flag is no bit of cmd2, and the frame is captured and emitted as any other. -/
theorem stopHasNoCommandBit : Obligations.StopHasNoCommandBit := by
  refine ⟨fun q hr hl hu hd ht hw => ?_, fun q hq hspeed => ⟨?_, rfl, rfl⟩, by decide,
    fun s a p hI har hv hq hT hpr hpo => ?_⟩
  · simp [cmd2Bits_eq_zero_iff, Request.noFlags, hr, hl, hu, hd, ht, hw]
  · simp only [Request.noFlags, Bool.and_eq_true, Bool.not_eq_true'] at hq
    obtain ⟨⟨⟨⟨⟨hr, hl⟩, hu⟩, hd⟩, -⟩, -⟩ := hq
    exact hspeed.elim (contract_eq_false_of_pan · hl hr) (contract_eq_false_of_tilt · hu hd)
  · obtain ⟨u, hstep, hcap⟩ := step_of_takes (s := { s with ports := a }) hI har hv hT
    have hrem := hcap.remaining_eq
    obtain ⟨hbusy, hidx, hframe, hstream, -⟩ := hcap
    have hS : u.advance.Sending (frameEncode a.req) 0#3 := ⟨hbusy, hidx, by decide, hframe⟩
    obtain ⟨t, hrun, ht⟩ := runOn_emits_remaining hS.wellFormed (ps := List.replicate 7 p)
      (fun x hx => List.eq_of_mem_replicate hx ▸ ⟨hpr, hpo⟩) (by simp [hrem, Frame.bytes])
    refine ⟨t, by simp only [runOn, hstep, hrun], ?_⟩
    have hcmd2 : cmd2Bits a.req = 0x00#8 := (cmd2Bits_eq_zero_iff _).2 hq
    simp [ht, hrem, hstream, Frame.bytes, hcmd2]

end Sys2Proof.Machine
end

section
/-! PROOFS. The serializer (R111 to R121): what the block does in one step of each operation, in runs that change
nothing, and in the run that sends an accepted frame. -/

namespace Sys2Proof.Machine

/-! ### Runs -/

/-- A run goes on from the next state of its first step. -/
theorem runOn_cons_of_step {p : Inputs} {s t : State} (h : step { s with ports := p } = .next t) (ps : List Inputs) :
    runOn (p :: ps) s = runOn ps t := by
  simp only [runOn, h]

/-- A run goes on from the last state of its first part. -/
theorem runOn_append_of_eq_next : ∀ {ps : List Inputs} {s t : State} (qs : List Inputs), runOn ps s = .next t →
    runOn (ps ++ qs) s = runOn qs t
  | [], _, _, _, h => by cases h; rfl
  | p :: ps, s, t, qs, h => by
    obtain ⟨u, hstep, hrun⟩ := runOn_cons_eq_next h
    calc runOn (p :: (ps ++ qs)) s
      _ = runOn (ps ++ qs) u := runOn_cons_of_step hstep _
      _ = runOn qs t := runOn_append_of_eq_next qs hrun

/-- A run changes nothing of the block if, from the states `Q` and for its inputs `P`, a step only moves the ports. -/
theorem runOn_keeps_block {Q : State → Prop} {P : Inputs → Prop}
    (hstep : ∀ (s : State) (p : Inputs), Q s → P p →
      step { s with ports := p } = .next (State.advance { s with ports := p }))
    (hQ : ∀ (s : State) (p : Inputs), Q s → Q (State.advance { s with ports := p })) :
    ∀ {ps : List Inputs} {s : State}, Q s → (∀ p ∈ ps, P p) →
      ∃ t, runOn ps s = .next t ∧ t.busy = s.busy ∧ t.idx = s.idx ∧ t.frame = s.frame ∧ t.m = s.m
  | [], s, _, _ => ⟨s, rfl, rfl, rfl, rfl, rfl⟩
  | p :: _, s, hs, hps => by
    obtain ⟨hp, hps⟩ := List.forall_mem_cons.1 hps
    obtain ⟨t, hrun, hkept⟩ := runOn_keeps_block hstep hQ (hQ s p hs) hps
    exact ⟨t, (runOn_cons_of_step (hstep s p hs hp) _).trans hrun, hkept⟩

/-! ### RESET and IDLE (R111, R112) -/

/-- A reset leaves an idle block. -/
theorem State.resetBlock_idling (s : State) : s.resetBlock.Idling := ⟨rfl, 0#3, rfl, by decide⟩

/-- IDLE writes no state element. -/
theorem State.Idling.exec_idle {s : State} (h : s.Idling) : exec .idle s = .next s :=
  guarded_of_wellFormed h.wellFormed _

/-- An idle block without a request performs IDLE. -/
theorem State.Idling.step_eq_of_not_inValid {s : State} (h : s.Idling) (hr : s.ports.rst = false)
    (hv : s.ports.inValid = false) : step s = .next s.advance := by
  have hsel : s.selected s.ports = some .idle := by simp [State.selected_idle hr h.1, hv]
  exact (step_of_selected hsel).trans (congrArg finishStep h.exec_idle)

/-- Without a request, an idle block stays as it is for any number of steps. -/
theorem State.Idling.runOn_keeps_block {s : State} (h : s.Idling) {ps : List Inputs}
    (hps : ∀ p ∈ ps, p.rst = false ∧ p.inValid = false) :
    ∃ t, runOn ps s = .next t ∧ t.busy = s.busy ∧ t.idx = s.idx ∧ t.frame = s.frame ∧ t.m = s.m :=
  Machine.runOn_keeps_block (Q := State.Idling) (P := fun p => p.rst = false ∧ p.inValid = false)
    (fun s p hI hp => State.Idling.step_eq_of_not_inValid (s := { s with ports := p }) hI hp.1 hp.2)
    (fun _ _ hI => hI) h hps

/-- Settles O8: an IDLE writes no state element, and a run without requests is all IDLE. -/
theorem idleChangesNothing : Obligations.IdleChangesNothing :=
  fun _ hI => ⟨hI.exec_idle, hI.outputs_eq, fun _ => hI.runOn_keeps_block⟩

/-- Settles O7: the writes of RESET leave an idle block, which stays idle without a request. -/
theorem resetClearsTheBlock : Obligations.ResetClearsTheBlock := by
  refine fun s => ⟨rfl, s.outputs_true, fun p hr => ?_, fun t ht => ?_⟩
  · have hsel : State.selected { s with ports := p } p = some .reset := State.selected_rst hr
    exact ⟨_, step_of_selected hsel, rfl, rfl, rfl, rfl⟩
  · cases exec_reset_eq_next ht
    have hI := s.resetBlock_idling
    refine ⟨rfl, fun hs => hI.outputs_eq.trans hs.outputs_eq.symm, State.remaining_of_idle rfl,
      fun ps u hps hu => ?_⟩
    obtain ⟨v, hrun, -, -, -, hm⟩ := hI.runOn_keeps_block hps
    cases hrun.symm.trans hu
    simp [hm]

/-! ### ACCEPT (R113) -/

/-- Settles O9: acceptance by the contract and the policy. -/
theorem acceptCapturesTheFrame : Obligations.AcceptCapturesTheFrame := by
  intro s hI
  have hexec : exec .accept s = acceptRequest s.ports.req s := guarded_of_wellFormed hI.wellFormed _
  refine ⟨fun hc => ?_, fun _ hp => exec_accept_of_takes hI (.inr hp), fun hc hp => ?_, hI.outputs_eq⟩
  · exact hexec.trans (if_pos hc)
  · exact hexec.trans (acceptRequest_eq_refused.2 ⟨hc, hp, rfl⟩)

/-! ### EMIT (R114) -/

/-- What moving the index writes in a busy block. -/
theorem State.nextIndex_of_busy {s : State} (h : s.busy = some true) (i : BitVec 3) :
    s.nextIndex i = { s with busy := some (i != 6#3), idx := some (if i = 6#3 then 0#3 else i + 1#3) } := by
  by_cases h6 : i = 6#3
  · simp [State.nextIndex, h6]
  · have hbusy : s.busy = some (i != 6#3) := by simp [h, h6]
    simp [State.nextIndex, h6, ← hbusy]

/-- After a byte before the last, the block offers the next one. -/
theorem State.Sending.emit_sending {s : State} {f : Frame} {i : BitVec 3} (h : s.Sending f i) (h6 : i ≠ 6#3)
    (b : Byte) : ((s.emitByte b).nextIndex i).advance.Sending f (i + 1#3) := by
  obtain ⟨hbusy, -, h7, hf⟩ := h
  have hne : i + 1#3 ≠ 7#3 := by simpa [h6] using nextIndex_idx_ne_seven h7
  exact ⟨by simp [h6, hbusy], by simp [h6], hne, by simp [hf]⟩

/-- After the last byte, the block is idle. -/
theorem State.emit_last_idling (s : State) (b : Byte) : ((s.emitByte b).nextIndex 6#3).advance.Idling :=
  ⟨rfl, 0#3, rfl, by decide⟩

/-- Settles O10: the offered byte is emitted, and the index moves on. -/
theorem emitTransfersTheOfferedByte : Obligations.EmitTransfersTheOfferedByte := by
  intro s f i hS
  obtain ⟨b, hb⟩ := hS.exists_byte
  have hnext : (s.emitByte b).nextIndex i = { s.emitByte b with
      busy := some (i != 6#3), idx := some (if i = 6#3 then 0#3 else i + 1#3) } :=
    State.nextIndex_of_busy (s := s.emitByte b) hS.1 i
  have hexec : exec .emit s = .next ((s.emitByte b).nextIndex i) :=
    (guarded_of_wellFormed hS.wellFormed _).trans (emitOffered_of_sending hS hb)
  exact ⟨b, hb, hexec.trans (congrArg _ hnext), fun h6 => (hS.emit_sending h6 b).2.2.1, hS.outputs_eq hb⟩

/-! ### STALL (R115, R118) -/

/-- STALL writes no state element. -/
theorem State.Sending.exec_stall {s : State} {f : Frame} {i : BitVec 3} (h : s.Sending f i) :
    exec .stall s = .next s :=
  guarded_of_wellFormed h.wellFormed _

/-- A block that offers a byte to a sink that is not ready stalls. -/
theorem State.Sending.step_eq_of_not_outReady {s : State} {f : Frame} {i : BitVec 3} (h : s.Sending f i)
    (hr : s.ports.rst = false) (ho : s.ports.outReady = false) : step s = .next s.advance := by
  have hsel : s.selected s.ports = some .stall := by simp [State.selected_busy hr h.1, ho]
  exact (step_of_selected hsel).trans (congrArg finishStep h.exec_stall)

/-- Settles O11: a STALL writes no state element, and a run whose sink is never ready is all STALL. -/
theorem stallHoldsTheOfferedByte : Obligations.StallHoldsTheOfferedByte := by
  intro s f i hS
  obtain ⟨b, hb⟩ := hS.exists_byte
  refine ⟨hS.exec_stall, ⟨b, hb, hS.outputs_eq hb⟩, fun ps hps => ?_⟩
  exact runOn_keeps_block (Q := fun s => s.Sending f i) (P := fun p => p.rst = false ∧ p.outReady = false)
    (fun s p hS hp => State.Sending.step_eq_of_not_outReady (s := { s with ports := p }) hS hp.1 hp.2)
    (fun _ _ hS => hS) hS hps

/-- A well-formed state that selects STALL is sending a frame. -/
theorem State.exists_sending_of_selected_stall {s : State} {p : Inputs} (hw : s.wellFormed = true)
    (hsel : s.selected p = some .stall) : ∃ f i, s.Sending f i := by
  obtain hI | hS := s.wellFormed_iff.1 hw
  · cases hr : p.rst with
    | true => cases (State.selected_rst hr).symm.trans hsel
    | false => cases hv : p.inValid <;> simp [State.selected_idle hr hI.1, hv] at hsel
  · exact hS

/-- Settles O14: a STALL keeps what the outputs are read from, and only a block that sends a frame stalls. -/
theorem offerIsStableUnderBackPressure : Obligations.OfferIsStableUnderBackPressure := by
  intro s t hsel h
  obtain ⟨u, hu, rfl⟩ := exec_of_step_eq_next hsel h
  obtain ⟨hw, hnext⟩ := guarded_eq_next hu
  cases hnext
  obtain ⟨f, i, hS⟩ := State.exists_sending_of_selected_stall hw hsel
  obtain ⟨b, hb⟩ := hS.exists_byte
  exact ⟨rfl, _, b, hS.outputs_eq hb, rfl, rfl⟩

/-! ### The request port of a busy block (R116) -/

/-- A step with the inputs `p` is the operation they select, whatever stood on the ports before. -/
theorem step_ports_eq (s : State) (p : Inputs) : step { s with ports := p } = finishStep (performWith p s) :=
  (step_eq_performWith _).trans (finishStep_performWith_ports ..)

/-- A busy block reads `rst` and `out_ready` alone. -/
theorem performWith_eq_of_busy {s : State} (hb : s.busy = some true) {p p' : Inputs} (hr : p.rst = p'.rst)
    (ho : p.outReady = p'.outReady) : performWith p s = performWith p' s := by
  cases h : p.rst with
  | true => simp only [performWith, State.selected_rst h, State.selected_rst (hr.symm.trans h)]
  | false =>
    simp only [performWith, State.selected_busy h hb, State.selected_busy (hr.symm.trans h) hb, ← ho]
    cases p.outReady <;> rfl

/-- A busy block is not ready for a request, in reset or not. -/
theorem State.inReady_of_busy {s : State} (hb : s.busy = some true) {rst : Bool} {o : Outputs}
    (h : s.outputs rst = some o) : o.inReady = false := by
  cases rst with
  | true => cases s.outputs_true.symm.trans h; rfl
  | false =>
    cases hw : s.wellFormed with
    | false => cases (State.outputs_of_not_wellFormed hw).symm.trans h
    | true =>
      obtain hI | ⟨f, i, hS⟩ := s.wellFormed_iff.1 hw
      · cases hI.1.symm.trans hb
      · obtain ⟨b, hbyte⟩ := hS.exists_byte
        cases (hS.outputs_eq hbyte).symm.trans h
        rfl

/-- Settles O12: neither the operation of a busy block nor its `in_ready` reads the request port. -/
theorem busyBlockIgnoresRequests : Obligations.BusyBlockIgnoresRequests := by
  refine fun s hb => ⟨fun p p' hr ho => ?_, fun _ _ => State.inReady_of_busy hb⟩
  rw [step_ports_eq, step_ports_eq, performWith_eq_of_busy hb hr ho]

/-! ### The outputs (R117) -/

/-- The outputs of a well-formed state without reset. -/
theorem State.outputs_of_wellFormed {s : State} {b : Bool} {i : BitVec 3} (hw : s.wellFormed = true)
    (hb : s.busy = some b) (hi : s.idx = some i) : s.outputs false = some (Outputs.running b i s.frame) := by
  simp [State.outputs, hw, hb, hi]

/-- Settles O13: the outputs in reset and in a well-formed state, and no port is read. -/
theorem outputsFollowTheState : Obligations.OutputsFollowTheState := by
  refine ⟨State.outputs_true, fun s b i hill hb hi => ?_, fun _ _ _ => rfl⟩
  have hw : s.wellFormed = true := by simpa [State.illFormed_iff] using hill
  exact State.outputs_of_wellFormed hw hb hi

/-! ### The step function (R119) -/

/-- Settles O1: each branch by the operation it selects; a state in none of the first five sends a frame to a sink
that is not ready. -/
theorem stepIsTheSpecStepFunction : Obligations.StepIsTheSpecStepFunction := by
  intro s
  cases hr : s.ports.rst with
  | true => exact step_of_selected (State.selected_rst hr)
  | false =>
    rw [if_neg Bool.false_ne_true]
    split_ifs with hill hidle haccept hemit
    · exact step_of_not_wellFormed hr (s.illFormed_iff.1 hill)
    · exact step_of_selected (o := .idle) (by simp [State.selected_idle hr hidle.1, hidle.2])
    · exact step_of_selected (o := .accept) (by simp [State.selected_idle hr haccept.1, haccept.2])
    · exact step_of_selected (o := .emit) (by simp [State.selected_busy hr hemit.1, hemit.2])
    · have hw : s.wellFormed = true := Bool.eq_true_of_not_eq_false (hill ∘ s.illFormed_iff.2)
      obtain hI | ⟨f, i, hS⟩ := s.wellFormed_iff.1 hw
      · cases hv : s.ports.inValid
        · exact absurd ⟨hI.1, hv⟩ hidle
        · exact absurd ⟨hI.1, hv⟩ haccept
      · have ho : s.ports.outReady = false := Bool.eq_false_of_not_eq_true fun ho => hemit ⟨hS.1, ho⟩
        exact step_of_selected (o := .stall) (by simp [State.selected_busy hr hS.1, ho])

/-! ### An accepted frame (R120, R121) -/

/-- Below 7, the next index is one more. -/
theorem index_succ_toNat {i : BitVec 3} (h : i.toNat < 7) : (i + 1#3).toNat = i.toNat + 1 := by
  simp only [BitVec.toNat_add, BitVec.toNat_ofNat]
  omega

/-- While the frame lasts, a block that sends it emits one byte in each step with the sink ready, and in the others
holds its offer, whatever else the inputs do. -/
theorem State.Sending.runOn_emits_take {f : Frame} : ∀ {ps : List Inputs} {s : State} {i : BitVec 3},
    s.Sending f i → (∀ p ∈ ps, p.rst = false) → i.toNat + ps.countP Inputs.outReady ≤ 6 →
    ∃ t j, runOn ps s = .next t ∧ t.Sending f j ∧ j.toNat = i.toNat + ps.countP Inputs.outReady
      ∧ t.m.stream = s.m.stream ++ (f.bytes.drop i.toNat).take (ps.countP Inputs.outReady)
  | [], s, i, hS, _, _ => ⟨s, i, rfl, hS, rfl, by simp⟩
  | p :: ps, s, i, hS, hps, hk => by
    obtain ⟨hr, hps⟩ := List.forall_mem_cons.1 hps
    have hS' : State.Sending { s with ports := p } f i := hS
    cases ho : p.outReady with
    | false =>
      rw [List.countP_cons_of_neg (by simp [ho])] at hk ⊢
      have hnext : State.Sending (State.advance { s with ports := p }) f i := hS
      obtain ⟨t, j, hrun, hlast⟩ := hnext.runOn_emits_take hps hk
      exact ⟨t, j, (runOn_cons_of_step (hS'.step_eq_of_not_outReady hr ho) ps).trans hrun, hlast⟩
    | true =>
      rw [List.countP_cons_of_pos ho] at hk ⊢
      obtain ⟨b, hb⟩ := hS.exists_byte
      obtain ⟨hlt, hget⟩ := List.getElem?_eq_some_iff.1 hb
      have h6 : i ≠ 6#3 := by rintro rfl; simp at hk
      have hsucc : (i + 1#3).toNat = i.toNat + 1 := index_succ_toNat hlt
      obtain ⟨t, j, hrun, hlast, hj, hstream⟩ := (hS'.emit_sending h6 b).runOn_emits_take hps (by omega)
      refine ⟨t, j, (runOn_cons_of_step (hS'.step_eq hb hr ho) ps).trans hrun, hlast, by omega, ?_⟩
      rw [hstream, List.drop_eq_getElem_cons hlt, hget, List.take_succ_cons, hsucc]
      simp

/-- The last byte ends the frame: the block is idle, with index 0. -/
theorem State.Sending.runOn_last {s : State} {f : Frame} (hS : s.Sending f 6#3) {p : Inputs} (hr : p.rst = false)
    (ho : p.outReady = true) : ∃ t, runOn [p] s = .next t ∧ t.m.stream = s.m.stream ++ [f.checksum] ∧ t.Idling
      ∧ t.idx = some 0#3 := by
  have hS' : State.Sending { s with ports := p } f 6#3 := hS
  exact ⟨_, runOn_cons_of_step (hS'.step_eq (b := f.checksum) rfl hr ho) [], rfl, State.emit_last_idling _ _, rfl⟩

/-- Settles O15: the accepting step leaves the block sending `Encode(q)` from byte 0, and each ready step emits one. -/
theorem acceptedFrameIsEmittedByteByByte : Obligations.AcceptedFrameIsEmittedByteByByte := by
  intro s a ps hI har hav hT hps hk k
  obtain ⟨u, hstep, hbusy, hidx, hframe, hstream, -⟩ := step_of_takes (s := { s with ports := a }) hI har hav hT
  have hS : u.advance.Sending (frameEncode a.req) 0#3 := ⟨hbusy, hidx, by decide, hframe⟩
  obtain ⟨t, j, hrun, hSt, hj, ht⟩ := hS.runOn_emits_take hps (by simpa using hk)
  replace hrun : runOn (a :: ps) s = .next t := (runOn_cons_of_step hstep ps).trans hrun
  replace hj : j.toNat = k := by simpa using hj
  replace ht : t.m.stream = s.m.stream ++ (frameEncode a.req).bytes.take k := by simpa [hstream] using ht
  obtain ⟨b, hb⟩ := hSt.exists_byte
  have hlast : (j == 6#3) = (k == 6) := by simp [← hj, BitVec.toNat_eq]
  refine ⟨⟨t, b, hrun, ht, hj ▸ hb, hlast ▸ hSt.outputs_eq hb⟩, fun p h6 hr ho => ?_⟩
  obtain rfl : j = 6#3 := BitVec.eq_of_toNat_eq (hj.trans h6)
  obtain ⟨v, hv, hvstream, hvI, hvidx⟩ := hSt.runOn_last hr ho
  refine ⟨v, (runOn_append_of_eq_next [p] hrun).trans hv, ?_, hvI.1, hvidx, hvI.outputs_eq⟩
  simp [hvstream, ht, h6, Frame.bytes]

end Sys2Proof.Machine
end

section
/-! PROOFS. The input contract condition by condition, and its reason codes (R131). -/

namespace Sys2Proof.Machine

/-! ### The six conditions -/

theorem addrOk_iff (q : Request) : addrOk q = true ↔ q.addr ≠ 0x00#8 := by
  simp [addrOk]

theorem speedOk_iff (q : Request) : speedOk q = true ↔ q.pan.toNat ≤ 0x39 ∧ q.tilt.toNat ≤ 0x39 := by
  simp [speedOk, Config.maxSpeed, BitVec.le_def]

theorem panDirectionOk_iff (q : Request) : panDirectionOk q = true ↔ ¬(q.left = true ∧ q.right = true) := by
  rw [panDirectionOk, Bool.not_eq_true', ← Bool.not_eq_true, Bool.and_eq_true]

theorem tiltDirectionOk_iff (q : Request) : tiltDirectionOk q = true ↔ ¬(q.up = true ∧ q.down = true) := by
  rw [tiltDirectionOk, Bool.not_eq_true', ← Bool.not_eq_true, Bool.and_eq_true]

theorem panSpeedOk_iff (q : Request) :
    panSpeedOk q = true ↔ (q.pan ≠ 0x00#8 → q.left = true ∨ q.right = true) := by
  simp [panSpeedOk, or_iff_not_imp_left]

theorem tiltSpeedOk_iff (q : Request) :
    tiltSpeedOk q = true ↔ (q.tilt ≠ 0x00#8 → q.up = true ∨ q.down = true) := by
  simp [tiltSpeedOk, or_iff_not_imp_left]

/-! ### The reason codes -/

/-- The reason codes of a request are those whose condition fails. -/
theorem mem_reasons_iff (q : Request) (r : ContractReason) : r ∈ reasons q ↔ r.holdsFor q = false := by
  have hall : r ∈ ContractReason.all := by cases r <;> decide
  simp [reasons, hall]

/-- A reason code is reported exactly when the condition it stands for, `P`, does not hold. -/
theorem mem_reasons_iff_not {q : Request} (r : ContractReason) {P : Prop} (h : r.holdsFor q = true ↔ P) :
    r ∈ reasons q ↔ ¬P := by
  rw [mem_reasons_iff, ← h, Bool.not_eq_true]

/-- The request without flag and speed is in the contract, at any address but 0. -/
theorem contract_of_noFlags {q : Request} (haddr : q.addr ≠ 0x00#8) (hq : q.noFlags = true)
    (hpan : q.pan = 0x00#8) (htilt : q.tilt = 0x00#8) : contract q = true := by
  simp only [Request.noFlags, Bool.and_eq_true, Bool.not_eq_true'] at hq
  obtain ⟨⟨⟨⟨⟨hr, -⟩, hu⟩, -⟩, -⟩, -⟩ := hq
  exact contract_of_speed_zero haddr hpan htilt (by simp [panDirectionOk, hr]) (by simp [tiltDirectionOk, hu])

/-- Settles O16: the contract is the six conditions, and a code stands for the negation of its own. No condition reads
a zoom flag. -/
theorem contractIsTheSixConditions : Obligations.ContractIsTheSixConditions := by
  refine fun q => ⟨?_, ?_, mem_reasons_iff_not .speedRange (speedOk_iff q), ?_, ?_, ?_, ?_, fun _ _ => rfl,
    contract_of_noFlags⟩
  · simp only [contract, Bool.and_eq_true, and_assoc, addrOk_iff, speedOk_iff, panDirectionOk_iff,
      tiltDirectionOk_iff, panSpeedOk_iff, tiltSpeedOk_iff]
  · exact (mem_reasons_iff_not .addrZero (addrOk_iff q)).trans not_not
  · exact (mem_reasons_iff_not .panBothDirections (panDirectionOk_iff q)).trans not_not
  · exact (mem_reasons_iff_not .tiltBothDirections (tiltDirectionOk_iff q)).trans not_not
  · simpa using mem_reasons_iff_not .panSpeedWithoutDirection (panSpeedOk_iff q)
  · simpa using mem_reasons_iff_not .tiltSpeedWithoutDirection (tiltSpeedOk_iff q)

end Sys2Proof.Machine
end

section
/-! PROOFS. The two ways a step stops, refusal (R132) and model fault (R136), and the priority of the events of one step
(R135). -/

namespace Sys2Proof.Machine

/-! ### Refusal (R132) -/

/-- An ACCEPT outside the contract under `refuse` is refused, with all failing codes. -/
theorem State.Idling.step_refused {s : State} (hI : s.Idling) (hr : s.ports.rst = false)
    (hv : s.ports.inValid = true) (hp : s.policy = .refuse) (hc : contract s.ports.req = false) :
    step s = .refused (.contractViolation (reasons s.ports.req) { s.m with refused := true }) := by
  have hsel : s.selected s.ports = some .accept := by simp [State.selected_idle hr hI.1, hv]
  have hexec : exec .accept s = .refused _ :=
    (guarded_of_wellFormed hI.wellFormed _).trans (acceptRequest_eq_refused.2 ⟨hc, hp, rfl⟩)
  exact (step_of_selected hsel).trans (congrArg finishStep hexec)

/-- Settles O17: a refused step is such an ACCEPT, and such an ACCEPT is refused. -/
theorem refusedExactlyOutsideTheContract : Obligations.RefusedExactlyOutsideTheContract := by
  refine ⟨fun s r => ⟨fun h => ?_, ?_⟩, fun s t h => (step_keeps_refused_and_fault h).1⟩
  · obtain ⟨hr, hI, hv, hc, hp, rfl⟩ := step_eq_refused h
    exact ⟨hr, hI, hv, hp, hc, rfl⟩
  · rintro ⟨hr, hI, hv, hp, hc, rfl⟩
    exact hI.step_refused hr hv hp hc

/-! ### Model fault (R136) -/

/-- A block that has captured a frame offers its first byte. -/
theorem Captured.sending {f : Frame} {s t : State} (h : Captured f s t) : t.Sending f 0#3 := by
  obtain ⟨hbusy, hidx, hframe, -⟩ := h
  exact ⟨hbusy, hidx, by decide, hframe⟩

/-- Every step that has a next state leaves it well-formed, whatever state it starts from (R110). -/
theorem step_wellFormed {s t : State} (h : step s = .next t) : t.wellFormed = true := by
  obtain ⟨-, rfl⟩ | ⟨-, hI, -, rfl⟩ | ⟨-, -, -, u, hu, rfl⟩ | ⟨-, -, f, i, b, hS, -, rfl⟩ | ⟨-, -, ⟨f, i, hS⟩, rfl⟩ :=
    step_eq_next h
  · exact s.resetBlock_idling.wellFormed
  · exact hI.wellFormed
  · exact (acceptRequest_captured hu).sending.wellFormed
  · exact hS.nextIndex_wellFormed b
  · exact hS.wellFormed

/-- A run faults in its first step or after it. -/
theorem runOn_cons_eq_fault {p : Inputs} {ps : List Inputs} {s : State} {r : Fault}
    (h : runOn (p :: ps) s = .fault r) :
    step { s with ports := p } = .fault r ∨ ∃ t, step { s with ports := p } = .next t ∧ runOn ps t = .fault r := by
  rw [runOn] at h
  split at h
  next t ht => exact .inr ⟨t, ht, h⟩
  next r' hr => exact .inl (hr.trans h)
  next => cases h

/-- A run from a well-formed state reaches no fault, whatever its inputs. -/
theorem runOn_ne_fault_of_wellFormed (r : Fault) : ∀ {ps : List Inputs} {s : State}, s.wellFormed = true →
    runOn ps s ≠ .fault r
  | [], _, _, h => by cases h
  | p :: ps, s, hw, h => by
    obtain hfault | ⟨t, ht, hrun⟩ := runOn_cons_eq_fault h
    · obtain ⟨-, hw' : s.wellFormed = false, -⟩ := step_eq_fault_iff.1 hfault
      exact Bool.false_ne_true (hw'.symm.trans hw)
    · exact runOn_ne_fault_of_wellFormed r (step_wellFormed ht) hrun

/-- Settles O20: the fault is by the check of R110 alone, which a reset step does not make and every later step of the
run meets. -/
theorem noFaultAfterReset : Obligations.NoFaultAfterReset := by
  refine ⟨fun s r => ?_, fun s t h => (step_keeps_refused_and_fault h).2, fun s p ps r hp h => ?_⟩
  · rw [State.illFormed_iff]
    exact step_eq_fault_iff
  · obtain hfault | ⟨t, ht, hrun⟩ := runOn_cons_eq_fault h
    · obtain ⟨hr : p.rst = false, -⟩ := step_eq_fault_iff.1 hfault
      exact Bool.false_ne_true (hr.symm.trans hp)
    · exact runOn_ne_fault_of_wellFormed r (step_wellFormed ht) hrun

/-! ### The priority of events (R135) -/

/-- A well-formed state without reset selects one operation, and not RESET. -/
theorem State.exists_selected_of_wellFormed {s : State} {p : Inputs} (hr : p.rst = false)
    (hw : s.wellFormed = true) : ∃ o, s.selected p = some o ∧ o ≠ .reset := by
  obtain hI | ⟨f, i, hS⟩ := s.wellFormed_iff.1 hw
  · exact ⟨_, State.selected_idle hr hI.1, by cases p.inValid <;> decide⟩
  · exact ⟨_, State.selected_busy hr hS.1, by cases p.outReady <;> decide⟩

/-- A step that accepts is one of an idle block without reset, and it captures the frame of its request. -/
theorem step_accept_eq_next {s t : State} (h : step s = .next t) (hsel : s.selected s.ports = some .accept) :
    s.ports.rst = false ∧ s.Idling ∧ ∃ u, Captured (frameEncode s.ports.req) s u ∧ t = u.advance := by
  obtain ⟨hr, -⟩ | ⟨hr, hI, hv, -⟩ | ⟨hr, hI, -, u, hu, rfl⟩ | ⟨hr, ho, f, i, b, hS, -⟩ | ⟨hr, ho, ⟨f, i, hS⟩, -⟩ :=
    step_eq_next h
  · simp [State.selected_rst hr] at hsel
  · simp [State.selected_idle hr hI.1, hv] at hsel
  · exact ⟨hr, hI, u, acceptRequest_captured hu, rfl⟩
  · simp [State.selected_busy hr hS.1, ho] at hsel
  · simp [State.selected_busy hr hS.1, ho] at hsel

/-- Only an EMIT adds to the stream, and it leaves the frame register as it is. -/
theorem step_emit_of_stream_ne {s t : State} (h : step s = .next t) (hne : t.m.stream ≠ s.m.stream) :
    s.selected s.ports = some .emit ∧ t.frame = s.frame := by
  obtain ⟨-, rfl⟩ | ⟨-, -, -, rfl⟩ | ⟨-, -, -, u, hu, rfl⟩ | ⟨hr, ho, f, i, b, hS, -, rfl⟩ | ⟨-, -, -, rfl⟩ :=
    step_eq_next h
  · exact absurd rfl hne
  · exact absurd rfl hne
  · obtain ⟨-, -, -, hstream, -⟩ := acceptRequest_captured hu
    exact absurd hstream hne
  · exact ⟨by simp [State.selected_busy hr hS.1, ho], by simp⟩
  · exact absurd rfl hne

/-- Settles O19: reset and the check of R110 come before the one selected operation; what it does to the stream tells
ACCEPT and EMIT apart; and a refusal carries `reason(q)`. -/
theorem priorityOfEvents : Obligations.PriorityOfEvents := by
  refine ⟨fun s hr => step_of_selected (State.selected_rst hr),
    fun s hr hill => step_of_not_wellFormed hr (s.illFormed_iff.1 hill), fun s hr hill => ?_, fun s t h hsel => ?_,
    fun s t => step_emit_of_stream_ne, fun s rs m h r => ?_⟩
  · have hw : s.wellFormed = true := Bool.eq_true_of_not_eq_false (hill ∘ s.illFormed_iff.2)
    obtain ⟨o, hsel, ho⟩ := State.exists_selected_of_wellFormed hr hw
    exact ⟨o, hsel, ho, step_of_selected hsel⟩
  · obtain ⟨hr, hI, u, ⟨-, -, -, hstream, -⟩, rfl⟩ := step_accept_eq_next h hsel
    refine ⟨hstream, fun o ho => ?_⟩
    rw [hr, hI.outputs_eq] at ho
    cases ho
    rfl
  · obtain ⟨-, -, -, -, -, hrefusal⟩ := step_eq_refused h
    cases hrefusal
    exact mem_reasons_iff s.ports.req r

end Sys2Proof.Machine
end

section
/-! PROOFS. Reset and power-on (R150, R151, R155), the step that takes a request (R153), and a frame in flight
(R154). -/

namespace Sys2Proof.Machine

/-! ### Power-on and the reset step (R30, R150) -/

theorem FrameReg.eq_none_of_mem_empty_bytes : ∀ b ∈ FrameReg.empty.bytes, b = none := by
  simp [FrameReg.empty, FrameReg.bytes]

/-- The next state of a reset step is RESET's result. -/
theorem step_reset_eq_next {s t : State} (hr : s.ports.rst = true) (h : step s = .next t) :
    t = s.resetBlock.advance := by
  obtain ⟨u, hu, rfl⟩ := exec_of_step_eq_next (State.selected_rst hr) h
  rw [exec_reset_eq_next hu]

/-- A reset step leaves an idle block. -/
theorem step_reset_idling {s t : State} (hr : s.ports.rst = true) (h : step s = .next t) : t.Idling :=
  step_reset_eq_next hr h ▸ s.resetBlock_idling

/-- Settles O22: a state with `busy` still `none` is not well-formed, and RESET alone runs without that check. -/
theorem powerOnNeedsReset : Obligations.PowerOnNeedsReset := by
  refine ⟨⟨rfl, rfl, FrameReg.eq_none_of_mem_empty_bytes⟩, fun s hb _ _ p => ⟨fun hr => ?_, fun hr => ?_⟩,
    fun s t hr h => ?_, fun s rst o ho hv => ?_⟩
  · have hill : State.IllFormed { s with ports := p } := .inl hb
    exact ⟨_, step_of_not_wellFormed hr ((State.illFormed_iff _).1 hill)⟩
  · have hsel : State.selected { s with ports := p } p = some .reset := State.selected_rst hr
    exact ⟨_, step_of_selected hsel⟩
  · cases step_reset_eq_next hr h
    exact ⟨rfl, rfl, FrameReg.eq_none_of_mem_empty_bytes⟩
  · obtain ⟨b, hb⟩ := State.exists_outByte_of_outValid ho hv
    simp [hb]

/-! ### The first byte after a reset (R151) -/

/-- A run never takes a byte back from the stream. -/
theorem runOn_stream_grows {ps : List Inputs} {s t : State} (h : runOn ps s = .next t) :
    ∃ bs, t.m.stream = s.m.stream ++ bs := by
  refine runOn_invariant (P := fun u => ∃ bs, u.m.stream = s.m.stream ++ bs) (fun u v p hu hv => ?_)
    ⟨[], (List.append_nil _).symm⟩ h
  obtain ⟨bs, hbs : u.m.stream = s.m.stream ++ bs⟩ := hu
  obtain ⟨o, -, hstream⟩ := step_stream hv
  exact ⟨_, by rw [hstream, hbs, List.append_assoc]⟩

/-- An idle block, run without a reset, emits nothing or first the sync byte of the first request it accepts. -/
theorem State.Idling.runOn_first_byte {s u : State} (hI : s.Idling) {ps : List Inputs}
    (hps : ∀ p ∈ ps, p.rst = false) (h : runOn ps s = .next u) :
    u.m.stream = s.m.stream
      ∨ ∃ q qs bs, acceptedOn ps s = q :: qs ∧ u.m.stream = s.m.stream ++ (frameEncode q).sync :: bs := by
  obtain ⟨emitted, hemitted⟩ := runOn_stream_grows h
  have hframes : emitted ++ u.remaining = (acceptedOn ps s).flatMap fun q => (frameEncode q).bytes := by
    simpa [hemitted, State.remaining_of_idle hI.1] using runOn_stream_append_remaining hps h
  cases emitted with
  | nil => exact .inl (by simpa using hemitted)
  | cons b bs =>
    cases hacc : acceptedOn ps s with
    | nil => simp [hacc] at hframes
    | cons q qs =>
      rw [hacc, List.flatMap_cons] at hframes
      obtain rfl : b = (frameEncode q).sync := (List.cons.inj hframes).1
      exact .inr ⟨q, qs, bs, rfl, hemitted⟩

/-- Settles O23: a reset step leaves an idle block. -/
theorem afterResetTheBlockIsReady : Obligations.AfterResetTheBlockIsReady := by
  intro s t hr h
  have hI := step_reset_idling hr h
  refine ⟨hI.outputs_eq, fun p hp => State.selected_idle hp hI.1, fun ps u hps hu => ?_⟩
  refine (hI.runOn_first_byte hps hu).imp_right ?_
  rintro ⟨q, qs, bs, hacc, hstream⟩
  exact ⟨q, qs, bs, hacc, frameEncode_sync q, hstream⟩

/-! ### The step that takes a request (R153) -/

/-- Only an idle block, and not in reset, is ready for a request. -/
theorem State.idling_of_inReady {s : State} {rst : Bool} {o : Outputs} (h : s.outputs rst = some o)
    (hready : o.inReady = true) : rst = false ∧ s.Idling := by
  cases rst with
  | true =>
    cases s.outputs_true.symm.trans h
    cases hready
  | false =>
    cases hw : s.wellFormed with
    | false => cases (State.outputs_of_not_wellFormed hw).symm.trans h
    | true =>
      refine ⟨rfl, (s.wellFormed_iff.1 hw).resolve_right ?_⟩
      rintro ⟨f, i, hS⟩
      simp [State.inReady_of_busy hS.1 h] at hready

/-- A step whose block is not ready reads nothing of the request port. -/
theorem step_eq_of_not_inReady {s : State} {p p' : Inputs}
    (h : ∀ o, s.outputs p.rst = some o → o.inReady = false) (hr : p.rst = p'.rst) (ho : p.outReady = p'.outReady) :
    step { s with ports := p } = step { s with ports := p' } := by
  cases hp : p.rst with
  | true =>
    have hsel (x : Inputs) (hx : x.rst = true) : State.selected { s with ports := x } x = some .reset :=
      State.selected_rst hx
    exact (step_of_selected (hsel p hp)).trans (step_of_selected (hsel p' (hr.symm.trans hp))).symm
  | false =>
    cases hw : s.wellFormed with
    | false =>
      have hfault (x : Inputs) (hx : x.rst = false) := step_of_not_wellFormed (s := { s with ports := x }) hx hw
      exact (hfault p hp).trans (hfault p' (hr.symm.trans hp)).symm
    | true =>
      obtain hI | ⟨f, i, hS⟩ := s.wellFormed_iff.1 hw
      · cases h _ (hp ▸ hI.outputs_eq)
      · exact (busyBlockIgnoresRequests s hS.1).1 p p' hr ho

/-- Settles O24: a step without a request, or of a block that is not ready, does not read the request fields; a ready
block is idle and selects ACCEPT. -/
theorem requestTakesEffectOnlyWhenTaken : Obligations.RequestTakesEffectOnlyWhenTaken := by
  refine ⟨fun s p q h => ?_, fun s t o ho hready hv h => ?_⟩
  · obtain hv | hnot := h
    · exact step_eq_of_not_inValid s rfl hv hv rfl
    · exact step_eq_of_not_inReady hnot rfl rfl
  · obtain ⟨hr, hI⟩ := State.idling_of_inReady ho hready
    have hsel : s.selected s.ports = some .accept := by simp [State.selected_idle hr hI.1, hv]
    obtain ⟨-, -, u, ⟨hbusy, -, hframe, -⟩, rfl⟩ := step_accept_eq_next h hsel
    exact ⟨hframe, hbusy⟩

/-! ### A frame in flight (R154) -/

/-- A block that sends a frame goes on sending it, but for the step that emits the last byte. -/
theorem State.Sending.step_cases {s t : State} {f : Frame} {i : BitVec 3} (hS : s.Sending f i)
    (hr : s.ports.rst = false) (h : step s = .next t) :
    (∃ j, t.Sending f j)
      ∨ (i = 6#3 ∧ s.ports.outReady = true ∧ t.frame = FrameReg.ofFrame f
        ∧ t.m.stream = s.m.stream ++ [f.checksum]) := by
  cases ho : s.ports.outReady with
  | false =>
    cases (hS.step_eq_of_not_outReady hr ho).symm.trans h
    exact .inl ⟨i, hS⟩
  | true =>
    obtain ⟨b, hb⟩ := hS.exists_byte
    cases (hS.step_eq hb hr ho).symm.trans h
    by_cases h6 : i = 6#3
    · obtain ⟨-, -, -, hframe⟩ := hS
      obtain rfl : f.checksum = b := by simpa [h6, Frame.bytes] using hb
      exact .inr ⟨h6, rfl, by simp [hframe], by simp⟩
    · exact .inl ⟨_, hS.emit_sending h6 b⟩

/-- A block that sends a frame accepts no request. -/
theorem State.Sending.selected_ne_accept {s : State} {f : Frame} {i : BitVec 3} (hS : s.Sending f i) {p : Inputs}
    (hr : p.rst = false) : s.selected p ≠ some .accept := by
  rw [State.selected_busy hr hS.1]
  cases p.outReady <;> simp

/-- Settles O25: a block that still sends the frame is not ready. -/
theorem noPreemption : Obligations.NoPreemption := by
  intro s t f i hS hr h
  obtain ⟨j, hSt⟩ | ⟨h6, ho, hframe, hstream⟩ := hS.step_cases hr h
  · obtain ⟨hbusy, -, -, hframe⟩ := hSt
    refine ⟨hframe, fun o hout hready => ?_⟩
    cases (State.inReady_of_busy hbusy hout).symm.trans hready
  · exact ⟨hframe, fun _ _ _ => ⟨h6, ho, hstream, hS.selected_ne_accept hr⟩⟩

/-! ### A reset during a frame (R155) -/

/-- Settles O26: the reset step drops what remains of the frame and leaves an idle block. -/
theorem resetAbandonsTheFrameInFlight : Obligations.ResetAbandonsTheFrameInFlight := by
  intro s t f i hS hr h
  have hI := step_reset_idling hr h
  obtain ⟨hstream, hrem⟩ := step_reset_stream_remaining hr h
  obtain ⟨b, hb⟩ := hS.exists_byte
  have hlt : i.toNat < 7 := (List.getElem?_eq_some_iff.1 hb).1
  refine ⟨by omega, hS.remaining_eq, hstream, hrem, fun ps u hps hu => ?_, fun ps u hps hu => ?_⟩
  · obtain ⟨v, hrun, -, -, -, hm⟩ := hI.runOn_keeps_block hps
    cases hrun.symm.trans hu
    rw [hm, hstream]
  · rw [← hstream]
    exact hI.runOn_first_byte hps hu

end Sys2Proof.Machine
end

section
/-! PROOFS. The invariant of the block: it holds at reset, and every step keeps it. -/

namespace Sys2Proof.Machine

/-- Settles O30: after a reset the block is idle at index 0, its register empty, and no mark is set. -/
theorem invariantHoldsAtReset : Obligations.InvariantHoldsAtReset :=
  ⟨.inl ⟨rfl, rfl⟩, .inl ⟨rfl, rfl⟩, rfl⟩

/-- A reset establishes the invariant where no mark is set, whatever the block held before. -/
theorem State.resetBlock_inv {s : State} (hm : s.m.clean = true) : s.resetBlock.Inv :=
  ⟨.inl ⟨rfl, rfl⟩, .inl ⟨rfl, rfl⟩, hm⟩

/-- Only a request that is taken is accepted (R113, R131 to R133). -/
theorem takes_of_acceptRequest_eq_next {q : Request} {s t : State} (h : acceptRequest q s = .next t) : s.Takes q :=
  (acceptRequest_eq_next h).imp And.left fun ⟨_, hp, _⟩ => hp

/-- Capturing the frame of a request that is taken establishes the invariant where no mark is set. -/
theorem Captured.inv {q : Request} {s t : State} (h : Captured (frameEncode q) s t) (hq : s.Takes q)
    (hm : s.m.clean = true) : t.Inv := by
  obtain ⟨hbusy, hidx, hframe, -, hrefused, hfault, hpolicy, -⟩ := h
  refine ⟨.inr ⟨hbusy, _, hidx, by decide⟩, .inr ⟨q, hframe, ?_⟩, ?_⟩
  · rwa [State.Takes, hpolicy]
  · rwa [Marks.clean, hrefused, hfault]

/-- Emission keeps the invariant: it leaves the register alone, and the index is legal as the block goes on sending or
is idle after the last byte. -/
theorem State.Inv.emit {s : State} (h : s.Inv) {f : Frame} {i : BitVec 3} (hS : s.Sending f i) (b : Byte) :
    ((s.emitByte b).nextIndex i).advance.Inv := by
  obtain ⟨-, ⟨hidle, -⟩ | ⟨q, hframe, hq⟩, hm⟩ := h
  · cases hidle.symm.trans hS.1
  · refine ⟨?_, .inr ⟨q, by simpa using hframe, by simpa [State.Takes] using hq⟩, by simpa [Marks.clean] using hm⟩
    by_cases h6 : i = 6#3
    · exact .inl (by simp [h6])
    · obtain ⟨hbusy, hidx, h7, -⟩ := hS.emit_sending h6 b
      exact .inr ⟨hbusy, _, hidx, h7⟩

/-- Every step keeps the invariant, by the operation it performs. -/
theorem State.Inv.step {s t : State} (hs : s.Inv) (h : Machine.step s = .next t) : t.Inv := by
  have ⟨_, _, hm⟩ := hs
  obtain ⟨-, rfl⟩ | ⟨-, -, -, rfl⟩ | ⟨-, -, -, u, hu, rfl⟩ | ⟨-, -, f, i, b, hS, -, rfl⟩ | ⟨-, -, -, rfl⟩ :=
    step_eq_next h
  · exact State.resetBlock_inv hm
  · exact hs
  · exact (acceptRequest_captured hu).inv (takes_of_acceptRequest_eq_next hu) hm
  · exact hs.emit hS b
  · exact hs

/-- Settles O31: every operation keeps the invariant, and RESET needs only that no mark is set. -/
theorem invariantIsKeptByEveryStep : Obligations.InvariantIsKeptByEveryStep :=
  ⟨fun _ _ hs h => hs.step h, fun _ _ hm hr h => step_reset_eq_next hr h ▸ State.resetBlock_inv hm⟩

end Sys2Proof.Machine
end

section
/-! PROOFS. The layout table and the algorithm give one frame; the decoder on the bytes of a word: a control vector in
one byte, a frame in seven, and the refusals (R65 to R70). -/

namespace Sys2Proof.Machine

/-! ### The two designs of the frame -/

/-- Settles O53: OR-ing the masks gives the bit map's cmd2, and cmd1 adds nothing to the sum. -/
theorem algorithmAgreesWithTheLayoutTable : Obligations.AlgorithmAgreesWithTheLayoutTable := by
  intro q
  have hcmd2 : cmd2Of q = cmd2Bits q := frameEncode_cmd2 q
  simp [frameEncode, layoutFrame, hcmd2, checksumOf]

/-! ### The rows of the table -/

/-- Every instruction is of a CTL-4 row or of a FRAME-56 row. -/
theorem instr_eq_toInstr (i : Instr) :
    (∃ o : CtlOp, i = o.toInstr) ∨ ∃ (c : FrameCmd) (q : Request), i = c.toInstr q := by
  cases i with
  | stop q => exact .inr ⟨.stop, q, rfl⟩
  | panRight q => exact .inr ⟨.panRight, q, rfl⟩
  | panLeft q => exact .inr ⟨.panLeft, q, rfl⟩
  | tiltUp q => exact .inr ⟨.tiltUp, q, rfl⟩
  | tiltDown q => exact .inr ⟨.tiltDown, q, rfl⟩
  | zoomTele q => exact .inr ⟨.zoomTele, q, rfl⟩
  | zoomWide q => exact .inr ⟨.zoomWide, q, rfl⟩
  | reset => exact .inl ⟨.reset, rfl⟩
  | idle => exact .inl ⟨.idle, rfl⟩
  | accept => exact .inl ⟨.accept, rfl⟩
  | emit => exact .inl ⟨.emit, rfl⟩
  | stall => exact .inl ⟨.stall, rfl⟩

/-- A frame command is well-formed exactly when its request asks for it and has at most one zoom flag. -/
theorem toInstr_wellFormed_iff (c : FrameCmd) (q : Request) :
    (c.toInstr q).wellFormed = true ↔ c.requestedBy q = true ∧ q.oneZoom = true := by
  obtain ⟨addr, right, left, up, down, tele, wide, pan, tilt⟩ := q
  revert right left up down tele wide
  cases c <;>
    simp only [FrameCmd.toInstr, Instr.wellFormed, FrameCmd.requestedBy, Request.noFlags, Request.oneZoom] <;>
    decide

/-! ### A control vector -/

/-- A control vector's byte decodes to the operation it selects (R70). -/
theorem decode_ctl : ∀ c : Ctl, decode [c.zeroExtend 8] = .ok [(selectOp c).toInstr] := by
  decide

theorem decode_encode_operation (o : CtlOp) : decode (encode o.toInstr) = .ok [o.toInstr] := by
  cases o <;> rfl

/-! ### A frame -/

/-- Seven bytes are decoded as the frame they are. -/
theorem decode_bytes (f : Frame) : decode f.bytes = decodeFrame f := rfl

/-- A check that names a reason and the checks after it name none exactly if neither does. -/
theorem ite_some_eq_none_iff {α : Type} {p : Prop} [Decidable p] {r : α} {x : Option α} :
    (if p then some r else x) = none ↔ ¬p ∧ x = none := by
  by_cases hp : p <;> simp [hp]

/-- A frame is taken exactly if it has none of the shapes of R67. -/
theorem reject?_eq_none_iff (f : Frame) :
    f.reject? = none ↔ f.sync = 0xFF#8 ∧ f.cmd1 = 0x00#8 ∧ (f.cmd2.getLsbD 7 = false ∧ f.cmd2.getLsbD 0 = false)
      ∧ ¬(f.cmd2.getLsbD 5 = true ∧ f.cmd2.getLsbD 6 = true) ∧ f.checksumOk = true := by
  simp only [Frame.reject?, ite_some_eq_none_iff]
  simp [-BitVec.getLsbD_eq_getElem]

/-- The bit map places in cmd2 the flags that the frame decode reads from it, if its other bits are as R63 says. -/
theorem cmd2Bits_request {f : Frame} (h7 : f.cmd2.getLsbD 7 = false) (h0 : f.cmd2.getLsbD 0 = false)
    (hzoom : ¬(f.cmd2.getLsbD 5 = true ∧ f.cmd2.getLsbD 6 = true)) : cmd2Bits f.request = f.cmd2 := by
  obtain ⟨b7, b6, b5, b4, b3, b2, b1, b0⟩ := cmd2Bits_bits f.request
  have hwide : (f.request.wide && !f.request.tele) = f.cmd2.getLsbD 6 := by
    simp only [Frame.request]
    revert hzoom
    cases f.cmd2.getLsbD 5 <;> cases f.cmd2.getLsbD 6 <;> decide
  refine BitVec.eq_of_getLsbD_eq fun i hi => ?_
  interval_cases i
  · exact b0.trans h0.symm
  · exact b1
  · exact b2
  · exact b3
  · exact b4
  · exact b5
  · exact b6.trans hwide
  · exact b7.trans h7.symm

/-- A frame that the decoder takes is the frame of the request that it decodes to (R65). -/
theorem eq_frameEncode_request {f : Frame} (h : f.reject? = none) : f = frameEncode f.request := by
  obtain ⟨hsync, hcmd1, ⟨h7, h0⟩, hzoom, hsum⟩ := (reject?_eq_none_iff f).1 h
  have hcmd2 : (frameEncode f.request).cmd2 = f.cmd2 := (frameEncode_cmd2 _).trans (cmd2Bits_request h7 h0 hzoom)
  have hbody : (frameEncode f.request).bodySum = f.bodySum := by
    simp only [Frame.bodySum, hcmd2, hcmd1]
    rfl
  have hchecksum : (frameEncode f.request).checksum = f.checksum := by
    refine BitVec.eq_of_toNat_eq ?_
    rw [frameEncode_checksum_toNat, hbody]
    exact (beq_iff_eq.1 hsum).symm
  change Frame.mk f.sync f.addr f.cmd1 f.cmd2 f.data1 f.data2 f.checksum = _
  rw [hsync, hcmd1, ← hcmd2, ← hchecksum]
  rfl

/-- The frame of a request has none of the shapes of R67. -/
theorem frameEncode_reject? (q : Request) : (frameEncode q).reject? = none := by
  obtain ⟨h7, h0, hzoom, -⟩ := reservedCommandBitsAreZero q
  exact (reject?_eq_none_iff _).2 ⟨rfl, rfl, ⟨h7, h0⟩, hzoom, frameEncode_checksumOk q⟩

/-- Decoding a frame without one of the shapes of R67 lists the commands it carries. -/
theorem decodeFrame_of_reject?_eq_none {f : Frame} (h : f.reject? = none) :
    decodeFrame f = .ok ((commandsOf f.packed).map fun c => c.toInstr f.request) := by
  simp only [decodeFrame, h]

/-- A frame that decodes has none of the shapes of R67. -/
theorem reject?_eq_none_of_decodeFrame_eq_ok {f : Frame} {is : List Instr} (h : decodeFrame f = .ok is) :
    f.reject? = none := by
  unfold decodeFrame at h
  split at h
  next => cases h
  next hreject => exact hreject

/-- The frame of a request decodes to the commands it carries. -/
theorem decode_frameEncode (q : Request) : decode (frameEncode q).bytes
    = .ok ((commandsOf (frameEncode q).packed).map fun c => c.toInstr (frameEncode q).request) :=
  decodeFrame_of_reject?_eq_none (frameEncode_reject? q)

/-- The decoder takes the frames of requests and no other frame. -/
theorem decode_eq_ok_iff (f : Frame) : (∃ is, decode f.bytes = .ok is) ↔ ∃ q, f = frameEncode q := by
  constructor
  · rintro ⟨is, his⟩
    exact ⟨f.request, eq_frameEncode_request (reject?_eq_none_of_decodeFrame_eq_ok his)⟩
  · rintro ⟨q, rfl⟩
    exact ⟨_, decode_frameEncode q⟩

/-- A frame that no request encodes to is refused. -/
theorem decode_eq_error {f : Frame} (h : ∀ q, frameEncode q ≠ f) : ∃ r, decode f.bytes = .error r := by
  cases hd : decode f.bytes with
  | error r => exact ⟨r, rfl⟩
  | ok is =>
    obtain ⟨q, hq⟩ := (decode_eq_ok_iff f).1 ⟨is, hd⟩
    exact absurd hq.symm (h q)

/-- Bytes that are neither one nor seven are no word. -/
theorem decode_of_length {bs : List Byte} (h1 : bs.length ≠ 1) (h7 : bs.length ≠ 7) :
    decode bs = .error .length := by
  unfold decode
  split
  · exact absurd rfl h1
  · exact absurd rfl h7
  · rfl

/-- Settles O52: the decoder takes exactly the frames of requests, and these have none of the shapes. -/
theorem decoderTakesExactlyTheProducedFrames : Obligations.DecoderTakesExactlyTheProducedFrames := by
  refine ⟨decode_eq_ok_iff, fun f h => ?_, fun f h => ?_, fun f h => ?_, fun f h5 h6 => ?_, fun f h => ?_,
    fun f h => ?_, fun _ => decode_of_length⟩
  · have hsync : f.reject? = some .sync := if_pos (bne_iff_ne.2 h)
    simp only [decode_bytes, decodeFrame, hsync]
  all_goals exact decode_eq_error (shapesNeverProduced f (by tauto))

/-! ### The round trip -/

/-- The bytes of a frame command are those of its request's frame. -/
theorem encode_toInstr (c : FrameCmd) (q : Request) : encode (c.toInstr q) = (frameEncode q).bytes := by
  rw [algorithmAgreesWithTheLayoutTable q]
  cases c <;> rfl

/-- With at most one zoom flag, the frame decode gives the request back (R96). -/
theorem frameEncode_request_of_oneZoom {q : Request} (h : q.oneZoom = true) : (frameEncode q).request = q := by
  obtain ⟨-, hdecode, -⟩ := frameDecodeRecoversTheRequest
  refine hdecode q ?_
  rintro ⟨htele, hwide⟩
  simp [Request.oneZoom, htele, hwide] at h

/-- Settles O51: an operation by its byte; a command's frame carries it, and the frame decode gives back the request,
which has at most one zoom flag. -/
theorem decodeOfEncode : Obligations.DecodeOfEncode := by
  intro i hi
  obtain ⟨o, rfl⟩ | ⟨c, q, rfl⟩ := instr_eq_toInstr i
  · exact ⟨_, decode_encode_operation o, List.mem_singleton_self _⟩
  · obtain ⟨hc, hzoom⟩ := (toInstr_wellFormed_iff c q).1 hi
    have hq := frameEncode_request_of_oneZoom hzoom
    refine ⟨_, (congrArg decode (encode_toInstr c q)).trans (decode_frameEncode q), ?_⟩
    rw [hq]
    exact List.mem_map_of_mem ((mem_commandsOf_frameEncode_iff q c).2 hc)

end Sys2Proof.Machine
end

section
/-! PROOFS. What every instruction changes and leaves unchanged, and the frame commands: a command is the step that
presents its request. -/

namespace Sys2Proof

/-- The request that a frame command presents: the operands with the command's flag, for STOP with none. -/
def FrameCmd.presented (q : Request) : FrameCmd → Request
  | .stop => Machine.Request.withoutFlags q
  | .panRight => { q with right := true }
  | .panLeft => { q with left := true }
  | .tiltUp => { q with up := true }
  | .tiltDown => { q with down := true }
  | .zoomTele => { q with tele := true }
  | .zoomWide => { q with wide := true }

/-- The request of a command that asks for it already is the request presented. -/
theorem FrameCmd.presented_of_requestedBy {c : FrameCmd} {q : Request} (h : c.requestedBy q = true) :
    c.presented q = q := by
  obtain ⟨addr, right, left, up, down, tele, wide, pan, tilt⟩ := q
  cases c <;> simp_all [FrameCmd.requestedBy, FrameCmd.presented, Request.noFlags, Machine.Request.withoutFlags]

end Sys2Proof

namespace Sys2Proof.Machine

/-! ### What one execution can do -/

/-- An execution that has a next state reset the block, changed nothing, captured the frame of the request presented to
it, or emitted a byte of a busy block. -/
theorem performWith_eq_next {p : Inputs} {s t : State} (h : performWith p s = .next t) :
    t = s.resetBlock ∨ t = s ∨ Captured (frameEncode p.req) s t
      ∨ ∃ f i b, s.Sending f i ∧ t = (s.emitByte b).nextIndex i := by
  rcases performWith_cases p s with
    ⟨-, hp⟩ | ⟨-, -, hp⟩ | ⟨-, -, -, hp⟩ | ⟨-, -, -, hp⟩ | ⟨-, ⟨f, i, hS⟩, -, hp⟩ | ⟨-, -, -, hp⟩
  · cases hp.symm.trans h
    exact .inl rfl
  · cases hp.symm.trans h
  · cases hp.symm.trans h
    exact .inr (.inl rfl)
  · exact .inr (.inr (.inl (acceptRequest_captured (hp.symm.trans h))))
  · obtain ⟨j, b, hj, -, rfl⟩ := emitOffered_eq_next (hp.symm.trans h)
    have ⟨_, hi, _⟩ := hS
    cases hi.symm.trans hj
    exact .inr (.inr (.inr ⟨f, i, b, hS, rfl⟩))
  · cases hp.symm.trans h
    exact .inr (.inl rfl)

/-- A frame command is the step in which its request is presented. -/
theorem exec_frameCmd (c : FrameCmd) (q : Request) (s : State) :
    exec (c.toInstr q) s = performWith (s.presenting (c.presented q)) s := by
  cases c <;> rfl

/-! ### The environment -/

/-- From `s` to `t` neither the policy, the count, the ports, the schedule nor the refusal and fault marks change, and
the stream grows by a byte at most. -/
def KeepsEnvironment (s t : State) : Prop :=
  t.policy = s.policy ∧ t.steps = s.steps ∧ t.ports = s.ports ∧ t.schedule = s.schedule
    ∧ t.m.refused = s.m.refused ∧ t.m.fault = s.m.fault ∧ ∃ bs, t.m.stream = s.m.stream ++ bs ∧ bs.length ≤ 1

theorem KeepsEnvironment.refl (s : State) : KeepsEnvironment s s :=
  ⟨rfl, rfl, rfl, rfl, rfl, rfl, [], by simp⟩

theorem KeepsEnvironment.resetBlock (s : State) : KeepsEnvironment s s.resetBlock :=
  ⟨rfl, rfl, rfl, rfl, rfl, rfl, [], by simp⟩

theorem KeepsEnvironment.of_captured {f : Frame} {s t : State} (h : Captured f s t) : KeepsEnvironment s t := by
  obtain ⟨-, -, -, hstream, hrefused, hfault, hpolicy, hsteps, hports, hschedule⟩ := h
  exact ⟨hpolicy, hsteps, hports, hschedule, hrefused, hfault, [], by simp [hstream]⟩

theorem KeepsEnvironment.emit (s : State) (b : Byte) (i : BitVec 3) :
    KeepsEnvironment s ((s.emitByte b).nextIndex i) := by
  simp [KeepsEnvironment]

theorem exec_ctlOp_keepsEnvironment (o : CtlOp) {s t : State} (h : exec o.toInstr s = .next t) :
    KeepsEnvironment s t := by
  cases o with
  | reset => cases exec_reset_eq_next h; exact .resetBlock s
  | idle => cases exec_idle_eq_next h; exact .refl s
  | accept => exact .of_captured (exec_accept_eq_next h)
  | emit =>
    obtain ⟨i, b, -, -, rfl⟩ := exec_emit_eq_next h
    exact .emit s b i
  | stall => cases exec_stall_eq_next h; exact .refl s

theorem exec_frameCmd_keepsEnvironment (c : FrameCmd) (q : Request) {s t : State}
    (h : exec (c.toInstr q) s = .next t) : KeepsEnvironment s t := by
  rw [exec_frameCmd] at h
  obtain rfl | rfl | hcap | ⟨-, i, b, -, rfl⟩ := performWith_eq_next h
  · exact .resetBlock s
  · exact .refl t
  · exact .of_captured hcap
  · exact .emit s b i

/-- Settles O32: by the row of the instruction. -/
theorem everyInstructionKeepsTheEnvironment : Obligations.EveryInstructionKeepsTheEnvironment := by
  intro i s t h
  obtain ⟨o, rfl⟩ | ⟨c, q, rfl⟩ := instr_eq_toInstr i
  · exact exec_ctlOp_keepsEnvironment o h
  · exact exec_frameCmd_keepsEnvironment c q h

/-! ### The block and the marks -/

/-- Settles O33: what each operation writes; a command emits only where a busy block does. -/
theorem whatEachInstructionLeavesUnchanged : Obligations.WhatEachInstructionLeavesUnchanged := by
  refine ⟨fun s t h => ?_, fun s t => exec_idle_eq_next, fun s t => exec_stall_eq_next, fun s t h => ?_,
    fun s t h => ?_, fun c q s t h => ?_⟩
  · cases exec_reset_eq_next h
    rfl
  · obtain ⟨-, -, -, hstream, -⟩ := exec_accept_eq_next h
    exact hstream
  · obtain ⟨i, b, -, -, rfl⟩ := exec_emit_eq_next h
    simp
  · rw [exec_frameCmd] at h
    obtain rfl | rfl | ⟨-, -, -, hstream, -⟩ | ⟨f, i, b, ⟨hbusy, -⟩, rfl⟩ := performWith_eq_next h
    · exact .inl rfl
    · exact .inl rfl
    · exact .inl hstream
    · exact .inr ⟨hbusy, by simp, by simp⟩

/-! ### Acceptance under `compute`, and of a frame command -/

/-- Settles O18: acceptance captures the frame in both cases, and marks the request outside the contract. -/
theorem computeEncodesEveryRequest : Obligations.ComputeEncodesEveryRequest := by
  intro s hI hp
  have hexec : exec .accept s = acceptRequest s.ports.req s := guarded_of_wellFormed hI.wellFormed _
  rw [hexec]
  cases hc : contract s.ports.req with
  | true => simp [acceptRequest, hc, State.capture]
  | false => simp [acceptRequest, hc, hp, State.capture, State.markInferred]

/-- An idle block without reset captures the frame of a frame command whose request is taken. -/
theorem exec_frameCmd_captured {s : State} (hI : s.Idling) (hr : s.ports.rst = false) (c : FrameCmd) {q : Request}
    (h : s.Takes (c.presented q)) :
    ∃ t, exec (c.toInstr q) s = .next t ∧ Captured (frameEncode (c.presented q)) s t := by
  obtain ⟨t, ht⟩ := h.acceptRequest_eq
  have hsel : s.selected (s.presenting (c.presented q)) = some .accept := State.selected_idle hr hI.1
  refine ⟨t, ?_, acceptRequest_captured ht⟩
  calc exec (c.toInstr q) s
    _ = performWith (s.presenting (c.presented q)) s := exec_frameCmd c q s
    _ = guarded s (acceptRequest (c.presented q) s) := by simp only [performWith, hsel]; rfl
    _ = .next t := (guarded_of_wellFormed hI.wellFormed _).trans ht

/-- Settles O34: each command's frame is captured, and the bit map shows the command's bit in it. -/
theorem frameCommandsAreCaptured : Obligations.FrameCommandsAreCaptured := by
  intro q s hI hr
  have hcap (c : FrameCmd) {P : Prop} (hP : P) (h : s.Takes (c.presented q)) :
      ∃ t, exec (c.toInstr q) s = .next t ∧ Captured (frameEncode (c.presented q)) s t ∧ P := by
    obtain ⟨t, ht, hcap⟩ := exec_frameCmd_captured hI hr c h
    exact ⟨t, ht, hcap, hP⟩
  obtain ⟨hright, -⟩ := panRightSetsItsBit
  obtain ⟨hleft, -⟩ := panLeftSetsItsBit
  obtain ⟨hup, -⟩ := tiltUpSetsItsBit
  obtain ⟨hdown, -⟩ := tiltDownSetsItsBit
  obtain ⟨htele, hnotWide, -⟩ := zoomTeleSetsItsBit
  obtain ⟨hwide, -⟩ := zoomWideSetsItsBit
  obtain ⟨hstop, -⟩ := stopHasNoCommandBit
  exact ⟨hcap .panRight (hright _), hcap .panLeft (hleft _), hcap .tiltUp (hup _), hcap .tiltDown (hdown _),
    hcap .zoomTele ⟨htele _, (hnotWide _ rfl).1⟩, hcap .zoomWide (hwide _),
    hcap .stop (hstop _ rfl rfl rfl rfl rfl rfl)⟩

/-! ### A presented request -/

/-- Settles O4: the ports that hold the request are those of the step that presents it; a busy block reads no
request. -/
theorem presentedCommandRuns : Obligations.PresentedCommandRuns := by
  refine ⟨fun s c hv hwf => ?_, fun s c q hb => ?_⟩
  · obtain ⟨hc, -⟩ := (toInstr_wellFormed_iff c _).1 hwf
    have hports : s.presenting s.ports.req = s.ports := by simp [State.presenting, ← hv]
    rw [exec_frameCmd, FrameCmd.presented_of_requestedBy hc, hports, step_eq_performWith]
  · have hports : performWith (s.presenting (c.presented q)) s = performWith s.ports s :=
      performWith_eq_of_busy hb rfl rfl
    rw [exec_frameCmd, hports]
    have hrun {o : CtlOp} (ho : s.selected s.ports = some o) := (exec_toInstr s ho).symm
    cases hr : s.ports.rst with
    | true => exact hrun (State.selected_rst hr)
    | false =>
      have hsel := State.selected_busy hr hb
      cases ho : s.ports.outReady <;> rw [ho] at hsel <;> exact hrun hsel

end Sys2Proof.Machine
end

section
/-! PROOFS. The instruction a step runs, and a word of the opcode table placed for the next step. -/

namespace Sys2Proof.Machine

/-! ### The fetched instruction -/

/-- A step runs the instruction that it fetches. -/
theorem step_of_fetch {s : State} {i : Instr} (h : s.fetch = some i) : step s = finishStep (exec i s) := by
  simp only [step, h]

theorem State.fetch_of_selected {s : State} {o : CtlOp} (h : s.selected s.ports = some o) :
    s.fetch = some o.toInstr := by
  simp only [State.fetch, h, Option.map_some]

/-- Where `busy` holds a value, the control vector has all its bits and selects the operation, in a reset too. -/
theorem State.selected_eq_selectOp {s : State} {b : Bool} (hb : s.busy = some b) (p : Inputs) :
    s.selected p = some (selectOp (ctlOf p.rst b p.inValid p.outReady)) := by
  cases hr : p.rst <;> simp [State.selected, hr, hb]

/-- A step with a next state only counts the step and moves the ports on, beside what its operation does. -/
theorem step_keepsEnvironment {s t : State} (h : step s = .next t) : ∃ u, KeepsEnvironment s u ∧ t = u.advance := by
  cases hsel : s.selected s.ports with
  | none => simp [step, State.fetch, hsel, faultUninitialised, finishStep] at h
  | some o =>
    obtain ⟨u, hu, rfl⟩ := exec_of_step_eq_next hsel h
    exact ⟨u, exec_ctlOp_keepsEnvironment o hu, rfl⟩

/-- Settles O2: the fetched instruction is that of the selected operation, which is the control vector's. -/
theorem stepRunsTheFetchedInstruction : Obligations.StepRunsTheFetchedInstruction := by
  refine ⟨fun s b hb => ?_, fun s hr => State.fetch_of_selected (State.selected_rst hr), fun s i h => ?_,
    fun s t h => ?_⟩
  · exact ⟨_, State.fetch_of_selected (State.selected_eq_selectOp hb s.ports), decode_ctl _⟩
  · rw [step_of_fetch h]
    cases exec i s <;> rfl
  · obtain ⟨u, ⟨-, hsteps, -⟩, rfl⟩ := step_keepsEnvironment h
    exact congrArg (· + 1) hsteps

/-! ### A placed word -/

/-- A table word is read from its bytes, and is the first instruction that they decode to. -/
theorem decodeTableWord_eq_some {nbits w : Nat} {i : Instr} (h : decodeTableWord nbits w = some i) :
    ∃ bs is, tableBytes nbits w = some bs ∧ decode bs = .ok (i :: is) := by
  unfold decodeTableWord at h
  split at h
  next => cases h
  next bs hbs =>
    split at h
    next j js hd =>
      cases h
      exact ⟨bs, js, hbs, hd⟩
    next => cases h
    next => cases h

/-- A table word of one byte decodes to the operation that its low four bits select. -/
theorem decodeTableWord_ctl {nbits w : Nat} {i : Instr} (hn : nbits ≤ 8) (h : decodeTableWord nbits w = some i) :
    i = (selectOp (BitVec.ofNat 4 w)).toInstr := by
  have hlow : (BitVec.ofNat 8 w).extractLsb' 0 4 = BitVec.ofNat 4 w := by
    refine BitVec.eq_of_toNat_eq ?_
    simp only [BitVec.extractLsb'_toNat, BitVec.toNat_ofNat, Nat.shiftRight_zero]
    omega
  obtain ⟨bs, is, hbs, hd⟩ := decodeTableWord_eq_some h
  rw [tableBytes, if_pos hn] at hbs
  split at hbs <;> cases hbs
  rw [decode] at hd
  split at hd <;> cases hd
  rw [hlow]

/-- A table word of a frame's length decodes to a command that the frame carries. -/
theorem decodeTableWord_frame {nbits w : Nat} {i : Instr} (hn : ¬nbits ≤ 8) (h : decodeTableWord nbits w = some i) :
    ∃ is, decodeFrame (Frame.ofPacked (BitVec.ofNat 56 w)) = .ok is ∧ i ∈ is := by
  obtain ⟨bs, is, hbs, hd⟩ := decodeTableWord_eq_some h
  rw [tableBytes, if_neg hn] at hbs
  split at hbs
  · split at hbs <;> cases hbs
    exact ⟨_, hd, List.mem_cons_self⟩
  · cases hbs

/-- A command that a frame decodes to is well-formed, with the request that the frame decodes to as its operands. -/
theorem wellFormed_of_mem_decodeFrame {f : Frame} {is : List Instr} {i : Instr} (h : decodeFrame f = .ok is)
    (hi : i ∈ is) : ∃ c : FrameCmd, i = c.toInstr f.request ∧ (c.toInstr f.request).wellFormed = true := by
  have hreject := reject?_eq_none_of_decodeFrame_eq_ok h
  obtain ⟨-, -, -, hzoom, -⟩ := (reject?_eq_none_iff f).1 hreject
  cases (decodeFrame_of_reject?_eq_none hreject).symm.trans h
  obtain ⟨c, hc, rfl⟩ := List.mem_map.1 hi
  rw [eq_frameEncode_request hreject, mem_commandsOf_frameEncode_iff] at hc
  have hone : f.request.oneZoom = true := by
    rw [Request.oneZoom, Bool.not_eq_true', ← Bool.not_eq_true, Bool.and_eq_true]
    exact hzoom
  exact ⟨c, rfl, (toInstr_wellFormed_iff c _).2 ⟨hc, hone⟩⟩

/-- The control vector of a placed word is the word. -/
theorem placeCtl_selected (c : Ctl) (s : State) :
    (placeCtl c s).selected (placeCtl c s).ports = some (selectOp c) := by
  have hbits : ∀ c : Ctl, ctlOf (c.getLsbD 3) (c.getLsbD 2) (c.getLsbD 1) (c.getLsbD 0) = c := by decide
  refine (State.selected_eq_selectOp rfl _).trans ?_
  exact congrArg (fun c => some (selectOp c)) (hbits c)

/-- Settles O5: a control vector is placed bit by bit, a frame as the request that it decodes to. -/
theorem placedWordRuns : Obligations.PlacedWordRuns := by
  intro s nbits w i h
  unfold State.withFetchWord placeWord
  split
  next hn =>
    cases decodeTableWord_ctl hn h
    exact step_of_selected (placeCtl_selected _ s)
  next hn =>
    obtain ⟨is, his, hi⟩ := decodeTableWord_frame hn h
    obtain ⟨c, rfl, hwf⟩ := wellFormed_of_mem_decodeFrame his hi
    obtain ⟨hrun, -⟩ := presentedCommandRuns
    exact hrun (placeFrame _ s) c rfl hwf

end Sys2Proof.Machine
end

section
/-! PROOFS. A loaded program: no operation reads the schedule, and the machine's run takes its inputs from there. -/

namespace Sys2Proof.Machine

/-- The states agree in all but the ports and the schedule. -/
def SameBlock (t u : State) : Prop :=
  t.busy = u.busy ∧ t.idx = u.idx ∧ t.frame = u.frame ∧ t.m = u.m ∧ t.policy = u.policy ∧ t.steps = u.steps

/-- The outcomes agree, next states in all but the ports and the schedule. -/
def SameOutcome : Host.Outcome State Fault Refusal → Host.Outcome State Fault Refusal → Prop
  | .next t, .next u => SameBlock t u
  | .fault r, .fault r' => r = r'
  | .refused r, .refused r' => r = r'
  | _, _ => False

theorem SameBlock.guarded {t u : State} (h : SameBlock t u) {k k' : Host.Outcome State Fault Refusal}
    (hk : SameOutcome k k') : SameOutcome (guarded t k) (guarded u k') := by
  obtain ⟨hbusy, hidx, hframe, hm, -⟩ := h
  have hw : t.wellFormed = u.wellFormed := by simp only [State.wellFormed, hbusy, hidx, hframe]
  unfold Machine.guarded
  rw [hw]
  split
  · exact hk
  · simp only [faultUninitialised, SameOutcome, hm]

theorem SameBlock.acceptRequest {t u : State} (h : SameBlock t u) (q : Request) :
    SameOutcome (acceptRequest q t) (acceptRequest q u) := by
  obtain ⟨-, -, -, hm, hpolicy, hsteps⟩ := h
  unfold Machine.acceptRequest
  rw [hpolicy]
  split
  · simp [SameOutcome, SameBlock, hm, hpolicy, hsteps]
  · split
    · simp only [refuseContract, SameOutcome, hm]
    · simp [SameOutcome, SameBlock, hm, hpolicy, hsteps]

theorem SameBlock.emitOffered {t u : State} (h : SameBlock t u) : SameOutcome (emitOffered t) (emitOffered u) := by
  obtain ⟨hbusy, hidx, hframe, hm, hpolicy, hsteps⟩ := h
  unfold Machine.emitOffered
  rw [hidx, hframe]
  split
  · simp only [faultUninitialised, SameOutcome, hm]
  · split
    · simp only [faultUninitialised, SameOutcome, hm]
    · simp [SameOutcome, SameBlock, hbusy, hframe, hm, hpolicy, hsteps]

/-- No operation reads the schedule, or the ports beside the inputs it is given. -/
theorem SameBlock.performWith {t u : State} (h : SameBlock t u) (p : Inputs) :
    SameOutcome (performWith p t) (performWith p u) := by
  have ⟨hbusy, _, _, hm, hpolicy, hsteps⟩ := h
  have hsel : t.selected p = u.selected p := by simp only [State.selected, hbusy]
  unfold Machine.performWith
  rw [hsel]
  cases u.selected p with
  | none => simp only [faultUninitialised, SameOutcome, hm]
  | some o =>
    cases o with
    | reset => exact ⟨rfl, rfl, rfl, hm, hpolicy, hsteps⟩
    | idle => exact h.guarded h
    | accept => exact h.guarded (h.acceptRequest p.req)
    | emit => exact h.guarded h.emitOffered
    | stall => exact h.guarded h

theorem SameOutcome.finishStep {o o' : Host.Outcome State Fault Refusal} (h : SameOutcome o o') :
    SameOutcome (finishStep o) (finishStep o') := by
  cases o <;> cases o'
  case next.next =>
    obtain ⟨hbusy, hidx, hframe, hm, hpolicy, hsteps⟩ := h
    exact ⟨hbusy, hidx, hframe, hm, hpolicy, congrArg (· + 1) hsteps⟩
  all_goals exact h

/-- A step moves the schedule on, and its next inputs to the ports. -/
theorem step_schedule {s t : State} {p : Inputs} {ps : List Inputs} (hs : s.schedule = p :: ps)
    (h : step s = .next t) : t.ports = p ∧ t.schedule = ps := by
  obtain ⟨u, ⟨-, -, -, hschedule, -⟩, rfl⟩ := step_keepsEnvironment h
  have hu : u.schedule = p :: ps := hschedule.trans hs
  simp [State.nextPorts, hu]

/-- A step on given inputs does the same in states that agree in the block. -/
theorem SameBlock.step {t u : State} (h : SameBlock t u) :
    SameOutcome (step t) (step { u with ports := t.ports }) := by
  rw [step_eq_performWith, step_eq_performWith]
  have hports : SameBlock t { u with ports := t.ports } := h
  exact (hports.performWith t.ports).finishStep

/-- Runs whose first steps agree agree, if they do after any agreeing next states of these. -/
theorem sameOutcome_run_succ {n : Nat} {p : Inputs} {ps : List Inputs} {t u : State}
    (hstep : SameOutcome (step t) (step { u with ports := p }))
    (hnext : ∀ t' u', step t = .next t' → SameBlock t' u' →
      SameOutcome (Sys2Proof.core.run n t') (runOn ps u')) :
    SameOutcome (Sys2Proof.core.run (n + 1) t) (runOn (p :: ps) u) := by
  change SameOutcome (Sys2Proof.core.step t) _ at hstep
  cases ht : Sys2Proof.core.step t <;> cases hu : step { u with ports := p } <;> rw [ht, hu] at hstep
  case next.next t' u' => simpa only [Host.Core.run, runOn, ht, hu] using hnext t' u' ht hstep
  case fault.fault => simpa only [Host.Core.run, runOn, ht, hu] using hstep
  case refused.refused => simpa only [Host.Core.run, runOn, ht, hu] using hstep
  all_goals exact hstep.elim

/-- The machine, run as long as its ports and its schedule say, does what the run with these inputs does. -/
theorem core_run_sameOutcome (ps : List Inputs) : ∀ {t u : State}, SameBlock t u → t.schedule = ps →
    SameOutcome (Sys2Proof.core.run (ps.length + 1) t) (runOn (t.ports :: ps) u) := by
  induction ps with
  | nil => exact fun h _ => sameOutcome_run_succ h.step fun _ _ _ hsame => hsame
  | cons p ps ih =>
    refine fun h hschedule => sameOutcome_run_succ h.step fun t' u' ht hsame => ?_
    obtain ⟨rfl, hschedule'⟩ := step_schedule hschedule ht
    exact ih hsame hschedule'

/-- Settles O6: loading puts the first word on the ports and schedules the others. -/
theorem loadedProgramRunsItsWords : Obligations.LoadedProgramRunsItsWords := by
  intro w ws s
  have hsame : SameBlock (s.loadProgram (w :: ws)) s := ⟨rfl, rfl, rfl, rfl, rfl, rfl⟩
  have hrun := core_run_sameOutcome _ hsame rfl
  rw [show (s.loadProgram (w :: ws)).schedule.length = ws.length from List.length_map _] at hrun
  exact hrun

end Sys2Proof.Machine
end

section
/-! PROOFS. Words and program lines written out from the spec, evaluated. -/

namespace Sys2Proof.Machine

/-- Settles O57: each word by evaluation. -/
theorem writtenOutWordsDecode : Obligations.WrittenOutWordsDecode := by
  refine ⟨?_, ?_, ?_, rfl, rfl, rfl, rfl, rfl, by decide⟩ <;> decide

/-- Settles O58: each line by evaluation. -/
theorem programLinesAssemble : Obligations.ProgramLinesAssemble := by
  refine ⟨?_, ?_, ?_, ?_, ?_, ?_⟩ <;> decide

end Sys2Proof.Machine
end
